-- ==== Sys2Proof/Word.lean ====
section
/-! DEFINITION. The widths of the machine: bytes, 16-bit words, nibbles, 12-bit address operands, and the index types
of the sixteen registers and the sixteen keys (`00_scope.md` R6, R7; `10_state.md` R20). -/

namespace Sys2Proof

/-- An 8-bit value: a general register, a timer, a byte of memory (R6, `XLEN`). -/
abbrev Byte := BitVec 8

/-- A 16-bit value: an instruction word, I, PC, a return address (R6, `ILEN`, `PCLEN`, `ILEN_INSN`). -/
abbrev Word := BitVec 16

/-- A 4-bit half-byte of an instruction word (R7, R71). -/
abbrev Nibble := BitVec 4

/-- The 12-bit address operand nnn (R71, R73). -/
abbrev Addr := BitVec 12

/-- The number of a general register, 0..15. Every value names a register (R20). -/
abbrev RegIdx := Fin 16

/-- The number of a logical key, 0..15 (R31). -/
abbrev KeyIdx := Fin 16

end Sys2Proof
end

