-- ==== Sys2Proof/Config.lean ====
section
/-! DEFINITION. What is fixed for the machine: the parameters of `00_scope.md` R6 with the values this hardware takes,
and the two values the spec leaves free (`rnd`, `TICK_RATE_HZ`), which have no body. -/

namespace Sys2Proof

/-- The two readings of a key number above 15 in SKP and SKNP (`45_keyed_single_reg.md` R171, `KEY_INDEX_OOR`). -/
inductive KeyIndexOor where
  /-- the low four bits select the key -/
  | mask4
  /-- no such key is ever down -/
  | notDown
deriving DecidableEq, Repr

namespace Config

/-- `MEM_SIZE`: bytes of memory (R6, R50). -/
def memSize : Nat := 4096

/-- `FONT_BASE` (R6). -/
def fontBase : Nat := 0x000

/-- `PROG_BASE`: where the program image is copied (R6, R250). -/
def progBase : Nat := 0x200

/-- `PROG_MAX`: the largest program image accepted (R6, R206). -/
def progMax : Nat := 0xE00

/-- `RESET_PC` (R6, R39). DESIGN CHOICE of the spec (D8), log entry 8, unsafe. -/
def resetPc : Word := 0x200

/-- `CTRL_N2_STRICT`: whether CLS and RET require nibble n2 = 0 (R6, R76). DESIGN CHOICE of the spec (D3), log entry 3,
unsafe. The decoder takes the value as an argument, so both readings are modelled. -/
def ctrlN2Strict : Bool := false

/-- `KEY_INDEX_OOR` (R6, R171). DESIGN CHOICE of the spec (D15), log entry 15, unsafe. The key selection takes the value
as an argument, so both readings are modelled. -/
def keyIndexOor : KeyIndexOor := .mask4

/-- Glyphs 0 to 3 of the customary font (`70_reset_and_hazards.md` R253). -/
def glyphs0To3 : List Byte :=
  [0xF0, 0x90, 0x90, 0x90, 0xF0] ++ [0x20, 0x60, 0x20, 0x20, 0x70] ++
  [0xF0, 0x10, 0xF0, 0x80, 0xF0] ++ [0xF0, 0x10, 0xF0, 0x10, 0xF0]

/-- Glyphs 4 to 7 (R253). -/
def glyphs4To7 : List Byte :=
  [0x90, 0x90, 0xF0, 0x10, 0x10] ++ [0xF0, 0x80, 0xF0, 0x10, 0xF0] ++
  [0xF0, 0x80, 0xF0, 0x90, 0xF0] ++ [0xF0, 0x10, 0x20, 0x40, 0x40]

/-- Glyphs 8 to B (R253). -/
def glyphs8ToB : List Byte :=
  [0xF0, 0x90, 0xF0, 0x90, 0xF0] ++ [0xF0, 0x90, 0xF0, 0x10, 0xF0] ++
  [0xF0, 0x90, 0xF0, 0x90, 0x90] ++ [0xE0, 0x90, 0xE0, 0x90, 0xE0]

/-- Glyphs C to F (R253). -/
def glyphsCToF : List Byte :=
  [0xF0, 0x80, 0x80, 0x80, 0xF0] ++ [0xE0, 0x90, 0x90, 0x90, 0xE0] ++
  [0xF0, 0x80, 0xF0, 0x80, 0xF0] ++ [0xF0, 0x80, 0xF0, 0x80, 0x80]

/-- The 80 bytes of the default `FONT` (R253). PRESUMED by the spec (general knowledge, D9, G3), log entry 9, unsafe. -/
def fontBytes : List Byte := glyphs0To3 ++ glyphs4To7 ++ glyphs8ToB ++ glyphsCToF

/-- The default `FONT` as the argument `construct` takes, 80 bytes by type (R254). -/
def font : Vector Byte 80 := ⟨fontBytes.toArray, rfl⟩

/-- The random bytes RND draws, one for each draw of a run (R124, `rnd` of R6): a FREE VALUE under no law, log entry 33.
It has no body, so nothing can be proved of it beyond its type. -/
opaque rnd : Nat → Byte

/-- `TICK_RATE_HZ` (R6, R268): OPEN, and no rule depends on it. A FREE VALUE, log entry 24. -/
opaque tickRateHz : Nat

end Config

end Sys2Proof
end

