-- ==== Sys2Proof/Syntax.lean ====
section
/-! DEFINITION. The 34 operations, one constructor for each row of `spec/opcode_table.json`, with the operand fields of
`30_encoding.md` R71 and R72. A nibble the operation ignores (n2 of CLS and RET, n3 of SHR and SHL) is kept in the
syntax, so that no bit of a word is lost in decoding (log entry 38). An Unknown word is no row of the table and no
constructor: it is the decoder's other outcome (R74, `Classified.unknown`). -/

namespace Sys2Proof

/-- An instruction. `x` and `y` are register numbers, `kk` the immediate byte, `nnn` the 12-bit address, `n` the
number of sprite rows (R71, R73). The docstring of a constructor is its spelling in R83 and its semantic rule. -/
inductive Instr where
  /-- `CLS`, R105; `n2` is ignored (R76) -/
  | cls (n2 : Nibble)
  /-- `RET`, R106; `n2` is ignored (R76) -/
  | ret (n2 : Nibble)
  /-- `JP addr`, R110 -/
  | jp (nnn : Addr)
  /-- `CALL addr`, R111 -/
  | call (nnn : Addr)
  /-- `SE Vx,byte`, R120 -/
  | seVxByte (x : RegIdx) (kk : Byte)
  /-- `SNE Vx,byte`, R121 -/
  | sneVxByte (x : RegIdx) (kk : Byte)
  /-- `SE Vx,Vy`, R131 -/
  | seVxVy (x y : RegIdx)
  /-- `LD Vx,byte`, R122 -/
  | ldVxByte (x : RegIdx) (kk : Byte)
  /-- `ADD Vx,byte`, R123 -/
  | addVxByte (x : RegIdx) (kk : Byte)
  /-- `LD Vx,Vy`, R132 -/
  | ldVxVy (x y : RegIdx)
  /-- `OR Vx,Vy`, R133 -/
  | orVxVy (x y : RegIdx)
  /-- `AND Vx,Vy`, R134 -/
  | andVxVy (x y : RegIdx)
  /-- `XOR Vx,Vy`, R135 -/
  | xorVxVy (x y : RegIdx)
  /-- `ADD Vx,Vy`, R136 -/
  | addVxVy (x y : RegIdx)
  /-- `SUB Vx,Vy`, R137 -/
  | subVxVy (x y : RegIdx)
  /-- `SHR Vx`, R138; `n3` is ignored -/
  | shrVx (x : RegIdx) (n3 : Nibble)
  /-- `SUBN Vx,Vy`, R139 -/
  | subnVxVy (x y : RegIdx)
  /-- `SHL Vx`, R140; `n3` is ignored -/
  | shlVx (x : RegIdx) (n3 : Nibble)
  /-- `SNE Vx,Vy`, R141 -/
  | sneVxVy (x y : RegIdx)
  /-- `LD I,addr`, R112 -/
  | ldIAddr (nnn : Addr)
  /-- `JP V0,addr`, R113 -/
  | jpV0Addr (nnn : Addr)
  /-- `RND Vx,byte`, R124 -/
  | rndVxByte (x : RegIdx) (kk : Byte)
  /-- `DRW Vx,Vy,n`, R150; `n` counts sprite rows, 0..15 -/
  | drwVxVyN (x y : RegIdx) (n : Fin 16)
  /-- `SKP Vx`, R160 -/
  | skpVx (x : RegIdx)
  /-- `SKNP Vx`, R161 -/
  | sknpVx (x : RegIdx)
  /-- `LD Vx,DT`, R162 -/
  | ldVxDt (x : RegIdx)
  /-- `LD Vx,K`, R163 -/
  | ldVxK (x : RegIdx)
  /-- `LD DT,Vx`, R164 -/
  | ldDtVx (x : RegIdx)
  /-- `LD ST,Vx`, R165 -/
  | ldStVx (x : RegIdx)
  /-- `ADD I,Vx`, R166 -/
  | addIVx (x : RegIdx)
  /-- `LD F,Vx`, R167 -/
  | ldFVx (x : RegIdx)
  /-- `LD B,Vx`, R168 -/
  | ldBVx (x : RegIdx)
  /-- `LD [I],Vx`, R169 -/
  | ldMemVx (x : RegIdx)
  /-- `LD Vx,[I]`, R170 -/
  | ldVxMem (x : RegIdx)
deriving DecidableEq, Repr

end Sys2Proof
end

