-- ==== Sys2Proof/WellFormed.lean ====
section
/-! DEFINITION. Which instructions have a word. Register numbers, immediates and row counts are bounded by their types;
the one further condition is the spec's parameter `CTRL_N2_STRICT` (`30_encoding.md` R76). -/

namespace Sys2Proof

/-- Whether the nibble n2 of a Control word is admitted: any value, or only 0 when `strict` (R76). -/
def ctrlNibbleOk (strict : Bool) (n2 : Nibble) : Bool := !strict || n2 == 0

/-- The check on an instruction, for either value of `CTRL_N2_STRICT` (R76). Every other field admits all its values
(R73, R78). -/
def Instr.wellFormedWith (strict : Bool) : Instr → Bool
  | .cls n2 | .ret n2 => ctrlNibbleOk strict n2
  | .jp _ | .call _ | .ldIAddr _ | .jpV0Addr _ => true
  | .seVxByte _ _ | .sneVxByte _ _ | .ldVxByte _ _ | .addVxByte _ _ | .rndVxByte _ _ => true
  | .seVxVy _ _ | .sneVxVy _ _ | .ldVxVy _ _ | .orVxVy _ _ | .andVxVy _ _ | .xorVxVy _ _ => true
  | .addVxVy _ _ | .subVxVy _ _ | .subnVxVy _ _ | .shrVx _ _ | .shlVx _ _ => true
  | .drwVxVyN _ _ _ => true
  | .skpVx _ | .sknpVx _ | .ldVxDt _ | .ldVxK _ | .ldDtVx _ | .ldStVx _ => true
  | .addIVx _ | .ldFVx _ | .ldBVx _ | .ldMemVx _ | .ldVxMem _ => true

/-- Well-formed on this hardware, where `CTRL_N2_STRICT` is false (R6). -/
def Instr.wellFormed (i : Instr) : Bool := i.wellFormedWith Config.ctrlN2Strict

end Sys2Proof
end

