-- ==== Sys2Proof/Decode.lean ====
section
/-! DEFINITION. The instruction decoder (`30_encoding.md` R70 to R81): the classifier of a 16-bit word into one of the
34 operations or Unknown, the encoder written from the same tables, and the opcode table itself as rows of mask and
match. -/

namespace Sys2Proof

/-- The outcome of the classifier: a defined operation, or Unknown carrying the raw word (R74, R81). -/
inductive Classified where
  | op (i : Instr)
  | unknown (w : Word)
deriving DecidableEq, Repr

/-! ### The fields of a word (R71) -/

/-- n1 = w[15:12] (R71). -/
def nibble1 (w : Word) : Nibble := w.extractLsb' 12 4

/-- n2 = w[11:8] (R71). -/
def nibble2 (w : Word) : Nibble := w.extractLsb' 8 4

/-- n3 = w[7:4] (R71). -/
def nibble3 (w : Word) : Nibble := w.extractLsb' 4 4

/-- n4 = w[3:0] (R71). -/
def nibble4 (w : Word) : Nibble := w.extractLsb' 0 4

/-- kk = w[7:0] (R71). -/
def byteKk (w : Word) : Byte := w.extractLsb' 0 8

/-- nnn = w[11:0] (R71). -/
def addrNnn (w : Word) : Addr := w.extractLsb' 0 12

/-- The register number, or count, that a nibble stands for (R71, R73). -/
def idxOfNibble (n : Nibble) : Fin 16 := ⟨n.toNat, n.isLt⟩

/-- The nibble of a register number or count. -/
def nibbleOfIdx (x : Fin 16) : Nibble := BitVec.ofNat 4 x.val

/-- x: the register numbered by n2 (R71). -/
def fieldX (w : Word) : RegIdx := idxOfNibble (nibble2 w)

/-- y: the register numbered by n3 (R71). -/
def fieldY (w : Word) : RegIdx := idxOfNibble (nibble3 w)

/-- n: the number of sprite rows, n4 (R71). -/
def fieldN (w : Word) : Fin 16 := idxOfNibble (nibble4 w)

/-! ### The classifier (R74 to R81)

The numeric sub-opcodes are PRESUMED by the spec (general knowledge, D2, G2), log entry 2, unsafe. -/

/-- n1 = 0, the Control family (R76). -/
def classifyControl (strict : Bool) (w : Word) : Classified :=
  if nibble3 w = 0xE ∧ ctrlNibbleOk strict (nibble2 w) = true then
    match nibble4 w with
    | 0x0#4 => .op (.cls (nibble2 w))
    | 0xE#4 => .op (.ret (nibble2 w))
    | _ => .unknown w
  else .unknown w

/-- n1 = 5: n4 = 0 is SE Vx,Vy (R77). -/
def classifySeReg (w : Word) : Classified :=
  match nibble4 w with
  | 0x0#4 => .op (.seVxVy (fieldX w) (fieldY w))
  | _ => .unknown w

/-- n1 = 9: n4 = 0 is SNE Vx,Vy (R77). -/
def classifySneReg (w : Word) : Classified :=
  match nibble4 w with
  | 0x0#4 => .op (.sneVxVy (fieldX w) (fieldY w))
  | _ => .unknown w

/-- n1 = 8, the nine ALU operations (R78). -/
def classifyAlu (w : Word) : Classified :=
  match nibble4 w with
  | 0x0#4 => .op (.ldVxVy (fieldX w) (fieldY w))
  | 0x1#4 => .op (.orVxVy (fieldX w) (fieldY w))
  | 0x2#4 => .op (.andVxVy (fieldX w) (fieldY w))
  | 0x3#4 => .op (.xorVxVy (fieldX w) (fieldY w))
  | 0x4#4 => .op (.addVxVy (fieldX w) (fieldY w))
  | 0x5#4 => .op (.subVxVy (fieldX w) (fieldY w))
  | 0x6#4 => .op (.shrVx (fieldX w) (nibble3 w))
  | 0x7#4 => .op (.subnVxVy (fieldX w) (fieldY w))
  | 0xE#4 => .op (.shlVx (fieldX w) (nibble3 w))
  | _ => .unknown w

/-- n1 = E: SKP and SKNP (R79). -/
def classifyKeyed (w : Word) : Classified :=
  match byteKk w with
  | 0x9E#8 => .op (.skpVx (fieldX w))
  | 0xA1#8 => .op (.sknpVx (fieldX w))
  | _ => .unknown w

/-- n1 = F, the nine operations of R80. -/
def classifyMisc (w : Word) : Classified :=
  match byteKk w with
  | 0x07#8 => .op (.ldVxDt (fieldX w))
  | 0x0A#8 => .op (.ldVxK (fieldX w))
  | 0x15#8 => .op (.ldDtVx (fieldX w))
  | 0x18#8 => .op (.ldStVx (fieldX w))
  | 0x1E#8 => .op (.addIVx (fieldX w))
  | 0x29#8 => .op (.ldFVx (fieldX w))
  | 0x33#8 => .op (.ldBVx (fieldX w))
  | 0x55#8 => .op (.ldMemVx (fieldX w))
  | 0x65#8 => .op (.ldVxMem (fieldX w))
  | _ => .unknown w

/-- The classifier for either value of `CTRL_N2_STRICT`: the first level, on n1 (R75). It reads the word alone. -/
def classifyWith (strict : Bool) (w : Word) : Classified :=
  match nibble1 w with
  | 0x0#4 => classifyControl strict w
  | 0x1#4 => .op (.jp (addrNnn w))
  | 0x2#4 => .op (.call (addrNnn w))
  | 0x3#4 => .op (.seVxByte (fieldX w) (byteKk w))
  | 0x4#4 => .op (.sneVxByte (fieldX w) (byteKk w))
  | 0x5#4 => classifySeReg w
  | 0x6#4 => .op (.ldVxByte (fieldX w) (byteKk w))
  | 0x7#4 => .op (.addVxByte (fieldX w) (byteKk w))
  | 0x8#4 => classifyAlu w
  | 0x9#4 => classifySneReg w
  | 0xA#4 => .op (.ldIAddr (addrNnn w))
  | 0xB#4 => .op (.jpV0Addr (addrNnn w))
  | 0xC#4 => .op (.rndVxByte (fieldX w) (byteKk w))
  | 0xD#4 => .op (.drwVxVyN (fieldX w) (fieldY w) (fieldN w))
  | 0xE#4 => classifyKeyed w
  | _ => classifyMisc w

/-- The classifier of this hardware (R74), with `CTRL_N2_STRICT` false. -/
def classify (w : Word) : Classified := classifyWith Config.ctrlN2Strict w

/-- The word of two fetched bytes, the first (at the lower address) in the high half (`20_memory.md` R55). PRESUMED by
the spec (general knowledge, D1), log entry 1, unsafe. -/
def wordOfBytes (first second : Byte) : Word := first ++ second

/-- The byte of a word stored at the lower address (R55). -/
def firstByte (w : Word) : Byte := w.extractLsb' 8 8

/-- The byte of a word stored at the higher address (R55). -/
def secondByte (w : Word) : Byte := w.extractLsb' 0 8

/-- The decoder on the two bytes of an instruction; every instruction is two bytes long (R70). -/
def decodeBytes (first second : Byte) : Classified := classify (wordOfBytes first second)

/-- The word that the low `nbits` bits of `w` give; an instruction has one word, so bit 0 is the word's bit 0. -/
def tableWord (nbits w : Nat) : Word := BitVec.ofNat 16 (w % 2 ^ nbits)

/-- What the decoder reads from the instruction whose bits are `w`, laid out as the hardware stores it. -/
def decodeTableWord (nbits w : Nat) : Option Instr :=
  match decodeBytes (firstByte (tableWord nbits w)) (secondByte (tableWord nbits w)) with
  | .op i => some i
  | .unknown _ => none

/-! ### The encoder, from the formats of R72 -/

/-- Format A: n1 and a 12-bit address. -/
def formatA (n1 : Nibble) (nnn : Addr) : Word := n1 ++ nnn

/-- Formats I, Z and K: n1, a second nibble, and the low byte. -/
def formatI (n1 n2 : Nibble) (kk : Byte) : Word := n1 ++ n2 ++ kk

/-- Formats R and D: four nibbles. -/
def formatR (n1 n2 n3 n4 : Nibble) : Word := n1 ++ n2 ++ n3 ++ n4

/-- The word of an instruction (R75 to R80, R83). -/
def encode : Instr → Word
  | .cls n2 => formatI 0x0 n2 0xE0
  | .ret n2 => formatI 0x0 n2 0xEE
  | .jp nnn => formatA 0x1 nnn
  | .call nnn => formatA 0x2 nnn
  | .seVxByte x kk => formatI 0x3 (nibbleOfIdx x) kk
  | .sneVxByte x kk => formatI 0x4 (nibbleOfIdx x) kk
  | .seVxVy x y => formatR 0x5 (nibbleOfIdx x) (nibbleOfIdx y) 0x0
  | .ldVxByte x kk => formatI 0x6 (nibbleOfIdx x) kk
  | .addVxByte x kk => formatI 0x7 (nibbleOfIdx x) kk
  | .ldVxVy x y => formatR 0x8 (nibbleOfIdx x) (nibbleOfIdx y) 0x0
  | .orVxVy x y => formatR 0x8 (nibbleOfIdx x) (nibbleOfIdx y) 0x1
  | .andVxVy x y => formatR 0x8 (nibbleOfIdx x) (nibbleOfIdx y) 0x2
  | .xorVxVy x y => formatR 0x8 (nibbleOfIdx x) (nibbleOfIdx y) 0x3
  | .addVxVy x y => formatR 0x8 (nibbleOfIdx x) (nibbleOfIdx y) 0x4
  | .subVxVy x y => formatR 0x8 (nibbleOfIdx x) (nibbleOfIdx y) 0x5
  | .shrVx x n3 => formatR 0x8 (nibbleOfIdx x) n3 0x6
  | .subnVxVy x y => formatR 0x8 (nibbleOfIdx x) (nibbleOfIdx y) 0x7
  | .shlVx x n3 => formatR 0x8 (nibbleOfIdx x) n3 0xE
  | .sneVxVy x y => formatR 0x9 (nibbleOfIdx x) (nibbleOfIdx y) 0x0
  | .ldIAddr nnn => formatA 0xA nnn
  | .jpV0Addr nnn => formatA 0xB nnn
  | .rndVxByte x kk => formatI 0xC (nibbleOfIdx x) kk
  | .drwVxVyN x y n => formatR 0xD (nibbleOfIdx x) (nibbleOfIdx y) (nibbleOfIdx n)
  | .skpVx x => formatI 0xE (nibbleOfIdx x) 0x9E
  | .sknpVx x => formatI 0xE (nibbleOfIdx x) 0xA1
  | .ldVxDt x => formatI 0xF (nibbleOfIdx x) 0x07
  | .ldVxK x => formatI 0xF (nibbleOfIdx x) 0x0A
  | .ldDtVx x => formatI 0xF (nibbleOfIdx x) 0x15
  | .ldStVx x => formatI 0xF (nibbleOfIdx x) 0x18
  | .addIVx x => formatI 0xF (nibbleOfIdx x) 0x1E
  | .ldFVx x => formatI 0xF (nibbleOfIdx x) 0x29
  | .ldBVx x => formatI 0xF (nibbleOfIdx x) 0x33
  | .ldMemVx x => formatI 0xF (nibbleOfIdx x) 0x55
  | .ldVxMem x => formatI 0xF (nibbleOfIdx x) 0x65

/-! ### The opcode table (`spec/opcode_table.json`, R85, R86) -/

/-- One row of the opcode table: a word is the row's operation when its masked bits are the match. -/
structure OpcodeRow where
  mask : Word
  value : Word
deriving DecidableEq, Repr

/-- Whether a word is one of the row's words. -/
def OpcodeRow.accepts (r : OpcodeRow) (w : Word) : Bool := w &&& r.mask == r.value

/-- The row of an instruction. The table is the one of `CTRL_N2_STRICT` false. -/
def opcodeRow : Instr → OpcodeRow
  | .cls _ => ⟨0xF0FF, 0x00E0⟩
  | .ret _ => ⟨0xF0FF, 0x00EE⟩
  | .jp _ => ⟨0xF000, 0x1000⟩
  | .call _ => ⟨0xF000, 0x2000⟩
  | .seVxByte _ _ => ⟨0xF000, 0x3000⟩
  | .sneVxByte _ _ => ⟨0xF000, 0x4000⟩
  | .seVxVy _ _ => ⟨0xF00F, 0x5000⟩
  | .ldVxByte _ _ => ⟨0xF000, 0x6000⟩
  | .addVxByte _ _ => ⟨0xF000, 0x7000⟩
  | .ldVxVy _ _ => ⟨0xF00F, 0x8000⟩
  | .orVxVy _ _ => ⟨0xF00F, 0x8001⟩
  | .andVxVy _ _ => ⟨0xF00F, 0x8002⟩
  | .xorVxVy _ _ => ⟨0xF00F, 0x8003⟩
  | .addVxVy _ _ => ⟨0xF00F, 0x8004⟩
  | .subVxVy _ _ => ⟨0xF00F, 0x8005⟩
  | .shrVx _ _ => ⟨0xF00F, 0x8006⟩
  | .subnVxVy _ _ => ⟨0xF00F, 0x8007⟩
  | .shlVx _ _ => ⟨0xF00F, 0x800E⟩
  | .sneVxVy _ _ => ⟨0xF00F, 0x9000⟩
  | .ldIAddr _ => ⟨0xF000, 0xA000⟩
  | .jpV0Addr _ => ⟨0xF000, 0xB000⟩
  | .rndVxByte _ _ => ⟨0xF000, 0xC000⟩
  | .drwVxVyN _ _ _ => ⟨0xF000, 0xD000⟩
  | .skpVx _ => ⟨0xF0FF, 0xE09E⟩
  | .sknpVx _ => ⟨0xF0FF, 0xE0A1⟩
  | .ldVxDt _ => ⟨0xF0FF, 0xF007⟩
  | .ldVxK _ => ⟨0xF0FF, 0xF00A⟩
  | .ldDtVx _ => ⟨0xF0FF, 0xF015⟩
  | .ldStVx _ => ⟨0xF0FF, 0xF018⟩
  | .addIVx _ => ⟨0xF0FF, 0xF01E⟩
  | .ldFVx _ => ⟨0xF0FF, 0xF029⟩
  | .ldBVx _ => ⟨0xF0FF, 0xF033⟩
  | .ldMemVx _ => ⟨0xF0FF, 0xF055⟩
  | .ldVxMem _ => ⟨0xF0FF, 0xF065⟩

/-- One instruction of each of the 34 rows, operand fields zero, in the table's order. -/
def rowSamples : List Instr :=
  [.cls 0, .ret 0, .jp 0, .call 0, .seVxByte 0 0, .sneVxByte 0 0, .seVxVy 0 0, .ldVxByte 0 0, .addVxByte 0 0] ++
  [.ldVxVy 0 0, .orVxVy 0 0, .andVxVy 0 0, .xorVxVy 0 0, .addVxVy 0 0, .subVxVy 0 0, .shrVx 0 0, .subnVxVy 0 0] ++
  [.shlVx 0 0, .sneVxVy 0 0, .ldIAddr 0, .jpV0Addr 0, .rndVxByte 0 0, .drwVxVyN 0 0 0, .skpVx 0, .sknpVx 0] ++
  [.ldVxDt 0, .ldVxK 0, .ldDtVx 0, .ldStVx 0, .addIVx 0, .ldFVx 0, .ldBVx 0, .ldMemVx 0, .ldVxMem 0]

/-- The 34 rows of the opcode table. -/
def opcodeRows : List OpcodeRow := rowSamples.map opcodeRow

end Sys2Proof
end

