-- ==== Sys2Proof/Machine/State.lean ====
section
/-! DEFINITION. All the state of the block (`10_state.md` R20 to R39), as plain data, and the state after construction
with the default font and an empty image. The spec gives the block no other state (R38); the one field of the model's
own is `rndCount` (log entry 33). -/

namespace Sys2Proof.Machine

/-- The three logical states of the interpreter (R36, `60_exceptions.md` R215). -/
inductive Mode where
  | running
  | awaitingInput
  | faulted
deriving DecidableEq, Repr

/-- The register that remembers which stack fault occurred (R35). DESIGN CHOICE of the spec (D18), log entry 18. -/
inductive FaultKind where
  | none
  | stackOverflow
  | stackUnderflow
deriving DecidableEq, Repr

/-- Memory: the listed bytes, addresses strictly rising, and no entry equal to what an unlisted address reads as
(`Memory.wf`, `Memory.unlisted` in `Machine/Ops.lean`). R27, log entry 34. -/
abbrev Memory := List Host.Cell

/-- The frame buffer: 32 rows of 64 one-bit pixels; bit x of row y is `fb[y][x]` (R28). The packing is invisible,
DESIGN CHOICE, log entry 35, safe. -/
abbrev FrameBuffer := Vector (BitVec 64) 32

/-- The state of the block. -/
structure State where
  /-- V0..VF (R20, R21) -/
  v : Vector Byte 16
  /-- the index register I (R22) -/
  i : Word
  /-- the program counter (R23) -/
  pc : Word
  /-- the stack pointer, the count of valid entries, 0..16 (R26) -/
  sp : Fin 17
  /-- the return stack (R25) -/
  stack : Vector Word 16
  /-- the delay timer (R29) -/
  dt : Byte
  /-- the sound timer (R30) -/
  st : Byte
  /-- the 4096 bytes of memory (R27, R50) -/
  mem : Memory
  /-- the frame buffer (R28) -/
  fb : FrameBuffer
  /-- the keyboard latch, true = down (R31) -/
  key : Vector Bool 16
  /-- the draw-ready signal (R33) -/
  drawReady : Bool
  /-- the awaiting-input signal (R34) -/
  awaitingInput : Bool
  /-- the logical state (R36) -/
  mode : Mode
  /-- the kind of the fault that occurred (R35) -/
  faultKind : FaultKind
  /-- the model's own field: how many random bytes RND has drawn (log entry 33) -/
  rndCount : Nat
deriving DecidableEq, Repr

/-- Reasons a step stops without a next state. There are none: every event is defined in every state
(`93_implementation_defined.md` section 1), and the two stack faults of R201 and R202 are next states in mode Faulted
(R203). Log entry 37, safe. -/
inductive Fault : Type
deriving DecidableEq, Repr

/-- Reasons an instruction has no meaning in the model. -/
inductive Refusal where
  /-- raised by an arm of `exec` whose instruction has no meaning yet; safe, since it stops where the hardware goes on.
  No arm of this model raises it. -/
  | notModelled (mnemonic : String)
deriving DecidableEq, Repr

/-- The state after `construct` with the default font and an empty image (R39, R250). Memory and mode are the source's;
PC is the spec's D8 (log entry 8), every zero the spec's D7 (log entry 7), `faultKind` D18 (log entry 18), all DESIGN
CHOICE of the spec and unsafe; `rndCount` is a DESIGN CHOICE of the model (log entry 33) that no statement uses. -/
def State.reset : State where
  v := Vector.replicate 16 0
  i := 0
  pc := Config.resetPc
  sp := 0
  stack := Vector.replicate 16 0
  dt := 0
  st := 0
  mem := []
  fb := Vector.replicate 32 0
  key := Vector.replicate 16 false
  drawReady := false
  awaitingInput := false
  mode := .running
  faultKind := .none
  rndCount := 0

end Sys2Proof.Machine
end

