-- ==== Sys2Proof/Machine/Ops.lean ====
section
/-! DEFINITION. The named operations over memory, registers, PC, the return stack, the frame buffer and the keyboard
latch, and the one fault entry. Every meaning is written over these. -/

namespace Sys2Proof.Machine

/-! ### Memory as data (`20_memory.md` R50 to R54) -/

/-- What an unlisted address reads as: the reset contents, the default font at 0x000..0x04F and zero elsewhere
(`70_reset_and_hazards.md` R252, R253). Log entries 9 and 34. -/
def Memory.unlisted (a : Nat) : Byte := Config.fontBytes.getD a 0

/-- The byte at an address. -/
def Memory.readAt : Memory → Nat → Byte
  | [], a => Memory.unlisted a
  | (k, b) :: rest, a => if k = a then b else Memory.readAt rest a

/-- Put one cell in its place by address. -/
def Memory.insertCell (c : Host.Cell) : Memory → Memory
  | [] => [c]
  | d :: rest => if c.1 < d.1 then c :: d :: rest else d :: Memory.insertCell c rest

/-- The memory without an entry for an address. -/
def Memory.erase (m : Memory) (a : Nat) : Memory := m.filter (fun c => c.1 != a)

/-- Write one byte, keeping the canonical form: the old entry goes, and a new one is listed unless the value is what an
unlisted address reads as. -/
def Memory.writeAt (m : Memory) (a : Nat) (b : Byte) : Memory :=
  if b = Memory.unlisted a then Memory.erase m a else Memory.insertCell (a, b) (Memory.erase m a)

/-- Write bytes at ascending addresses. -/
def Memory.writeBytes : Memory → Nat → List Byte → Memory
  | m, _, [] => m
  | m, a, b :: rest => Memory.writeBytes (Memory.writeAt m a b) (a + 1) rest

/-- The canonical form: addresses strictly rising and inside the 4096 bytes, no entry that could be left out. -/
abbrev Memory.wf (m : Memory) : Prop :=
  List.Pairwise (fun c d => c.1 < d.1) m ∧ ∀ c ∈ m, c.1 < Config.memSize ∧ c.2 ≠ Memory.unlisted c.1

/-! ### The access primitives (R52, R53) -/

/-- The address a memory access uses: any natural number, taken mod 4096 (R54). DESIGN CHOICE of the spec (D5), log
entry 5. -/
def wrapAddr (addr : Nat) : Nat := addr % Config.memSize

/-- `MemRead(addr, 1)` (R52). -/
def State.memRead (s : State) (addr : Nat) : Byte := Memory.readAt s.mem (wrapAddr addr)

/-- `MemWrite(addr, 1, b)` (R53). -/
def State.memWrite (s : State) (addr : Nat) (b : Byte) : State :=
  { s with mem := Memory.writeAt s.mem (wrapAddr addr) b }

/-- The word at PC, its first byte in the high half (`MemRead(PC, 2)`, R55, R57, R100). -/
def State.fetchWord (s : State) : Word :=
  wordOfBytes (s.memRead s.pc.toNat) (s.memRead (s.pc.toNat + 1))

/-! ### General registers and the flag register (`10_state.md` R20, R21) -/

/-- Read `V[x]`. -/
def State.readV (s : State) (x : RegIdx) : Byte := s.v[x]

/-- `V[x] <- b`. -/
def State.writeV (s : State) (x : RegIdx) (b : Byte) : State := { s with v := s.v.set x b }

/-- VF, register 15, the flag register (R21). -/
def flagReg : RegIdx := 15

/-- `VF <- b` as a flag (R21, R32). -/
def State.writeFlag (s : State) (b : Byte) : State := s.writeV flagReg b

/-- Result first, flag last: with x = F the flag is what VF holds afterwards (`43_reg_pair.md` R130). DESIGN CHOICE of
the spec (D13), log entry 13, unsafe. -/
def State.writeResultThenFlag (s : State) (x : RegIdx) (result flag : Byte) : State :=
  (s.writeV x result).writeFlag flag

/-! ### I, PC and the timers (R22, R23, R24, R29, R30) -/

/-- `I <- a`, all 16 bits kept (R22). -/
def State.writeI (s : State) (a : Word) : State := { s with i := a }

/-- `PC <- a` (R24). -/
def State.jumpTo (s : State) (a : Word) : State := { s with pc := a }

/-- `(PC + 2) mod 65536`, the address of the next instruction (R24). -/
def State.nextPc (s : State) : Word := s.pc + 2

/-- `PC <- (PC + 2) mod 65536` (R24, `40_control.md` R101). -/
def State.advance (s : State) : State := s.jumpTo s.nextPc

/-- The conditional skip: PC + 4 when the condition holds, else PC + 2 (R24). -/
def State.skipIf (s : State) (cond : Bool) : State := if cond then s.jumpTo (s.pc + 4) else s.advance

/-- `DT <- b` (R29). -/
def State.writeDt (s : State) (b : Byte) : State := { s with dt := b }

/-- `ST <- b` (R30). -/
def State.writeSt (s : State) (b : Byte) : State := { s with st := b }

/-! ### The frame buffer, the signals and the draw counter as registers (R28, R33, R34, R36) -/

/-- The frame buffer replaced by another. -/
def State.writeFb (s : State) (fb : FrameBuffer) : State := { s with fb := fb }

/-- `draw_ready <- 1` (R33). -/
def State.signalDraw (s : State) : State := { s with drawReady := true }

/-- `awaiting_input <- waiting; mode <- m`, the two await elements of the key wait (R34, R36). -/
def State.setWait (s : State) (waiting : Bool) (m : Mode) : State := { s with awaitingInput := waiting, mode := m }

/-- One more random byte drawn (log entry 33). -/
def State.countDraw (s : State) : State := { s with rndCount := s.rndCount + 1 }

/-! ### The return stack (R25, R26) -/

/-- Push a return address: `stack[SP] <- a; SP <- SP + 1`, or none when SP = 16 (`41_address.md` R111). -/
def State.push (s : State) (a : Word) : Option State :=
  if h : s.sp.val < 16 then
    some { s with stack := s.stack.set s.sp.val a, sp := ⟨s.sp.val + 1, by omega⟩ }
  else none

/-- Pop a return address: `SP <- SP - 1`, the address `stack[SP]`, or none when SP = 0 (`40_control.md` R106). The entry
keeps its value; DESIGN CHOICE of the spec (D17), log entry 17. -/
def State.pop (s : State) : Option (Word × State) :=
  if h : 0 < s.sp.val then
    some (s.stack[s.sp.val - 1]'(by omega), { s with sp := ⟨s.sp.val - 1, by omega⟩ })
  else none

/-! ### Fault entry (`60_exceptions.md` R203)

There is no return from a fault: Faulted is terminal (R204). -/

/-- `raise Fault(kind)`: the mode and the kind, and nothing else (R203). DESIGN CHOICE of the spec (D18), log entry 18,
unsafe. -/
def State.raiseFault (s : State) (kind : FaultKind) : State := { s with mode := .faulted, faultKind := kind }

/-! ### The frame buffer (R28) -/

/-- The pixel at (x, y), both coordinates taken into the buffer (`44_draw.md` R150). -/
def FrameBuffer.pixel (fb : FrameBuffer) (x y : Nat) : Bool :=
  (fb[y % 32]'(Nat.mod_lt y (by decide))).getLsbD (x % 64)

/-- `fb[y][x] <- fb[y][x] XOR b` (R150). -/
def FrameBuffer.xorPixel (fb : FrameBuffer) (x y : Nat) (b : Bool) : FrameBuffer :=
  if b then
    fb.set (y % 32) ((fb[y % 32]'(Nat.mod_lt y (by decide))) ^^^ BitVec.twoPow 64 (x % 64))
      (Nat.mod_lt y (by decide))
  else fb

/-- The buffer with every pixel 0 (`40_control.md` R105). -/
def FrameBuffer.blank : FrameBuffer := Vector.replicate 32 0

/-! ### The keyboard latch (R31) -/

/-- Whether a key is down now (`60_exceptions.md` R218). -/
def State.keyDown (s : State) (k : KeyIdx) : Bool := s.key[k]

/-- The lowest-numbered key that is down (`45_keyed_single_reg.md` R163). -/
def State.lowestKeyDown (s : State) : Option KeyIdx := (List.finRange 16).find? (fun k => s.keyDown k)

end Sys2Proof.Machine
end

