-- ==== Sys2Proof/Machine/Operands.lean ====
section
/-! DEFINITION. The operand forms: the immediates, the values computed from V, I and nnn, the register list of the block
copies, the key a register selects, and the exact arithmetic of the ALU, narrowed at the end
(`30_encoding.md` R73, `43_reg_pair.md` R142). -/

namespace Sys2Proof.Machine

/-! ### Addresses -/

/-- nnn as a 16-bit value, zero extended (R73, R110, R112). -/
def addrOperand (nnn : Addr) : Word := nnn.setWidth 16

/-- The target of JP V0,addr: `(nnn + V[0]) mod 65536` (`41_address.md` R113). -/
def v0Target (s : State) (nnn : Addr) : Word := BitVec.ofNat 16 (nnn.toNat + (s.readV 0).toNat)

/-- The address of byte `k` of the bytes at I, before it is taken mod 4096 (`45_keyed_single_reg.md` section 4). -/
def indexed (s : State) (k : Nat) : Nat := s.i.toNat + k

/-- The sum of ADD I,Vx: `(I + V[x]) mod 65536` (R166). -/
def indexSum (i : Word) (b : Byte) : Word := BitVec.ofNat 16 (i.toNat + b.toNat)

/-- The address of the glyph of digit `b`: 5 times the whole byte (R167). DESIGN CHOICE of the spec (D28), log entry 28. -/
def glyphAddr (b : Byte) : Word := BitVec.ofNat 16 (Config.fontBase + 5 * b.toNat)

/-! ### 8-bit results (R142) -/

/-- `(a + b) mod 256` (R123, R136). -/
def sum8 (a b : Byte) : Byte := BitVec.ofNat 8 (a.toNat + b.toNat)

/-- `(a - b) mod 256` (R137, R139). -/
def diff8 (a b : Byte) : Byte := BitVec.ofInt 8 ((a.toNat : Int) - (b.toNat : Int))

/-- `a >> 1` (R138). -/
def shiftRight8 (a : Byte) : Byte := BitVec.ofNat 8 (a.toNat / 2)

/-- `(a << 1) mod 256` (R140). -/
def shiftLeft8 (a : Byte) : Byte := BitVec.ofNat 8 (2 * a.toNat)

/-! ### Decimal digits (R168) -/

/-- The hundreds digit of a byte. -/
def hundreds (b : Byte) : Byte := BitVec.ofNat 8 (b.toNat / 100)

/-- The tens digit of a byte. -/
def tens (b : Byte) : Byte := BitVec.ofNat 8 (b.toNat / 10 % 10)

/-- The ones digit of a byte. -/
def ones (b : Byte) : Byte := BitVec.ofNat 8 (b.toNat % 10)

/-! ### The registers of a block copy (R169, R170) -/

/-- Registers 0..=x in ascending order. -/
def regsUpTo (x : RegIdx) : List RegIdx := (List.finRange 16).filter (fun r => decide (r ≤ x))

/-! ### The key a register selects (R171) -/

/-- The key that a byte numbers, for either value of `KEY_INDEX_OOR`; none is a key that is never down. -/
def keyIndexWith (oor : KeyIndexOor) (b : Byte) : Option KeyIdx :=
  match oor with
  | .mask4 => some ⟨b.toNat % 16, Nat.mod_lt _ (by decide)⟩
  | .notDown => if h : b.toNat < 16 then some ⟨b.toNat, h⟩ else none

/-- Whether the key that a byte numbers is down, for either value of `KEY_INDEX_OOR`. -/
def keySelectedWith (oor : KeyIndexOor) (s : State) (b : Byte) : Bool :=
  match keyIndexWith oor b with
  | some k => s.keyDown k
  | none => false

/-- Whether the key that a byte numbers is down on this hardware: `V[x] mod 16` (R171). DESIGN CHOICE of the spec (D15),
log entry 15, unsafe. -/
def keySelected (s : State) (b : Byte) : Bool := keySelectedWith Config.keyIndexOor s b

end Sys2Proof.Machine
end

