-- ==== Sys2Proof/Machine/Address.lean ====
section
/-! DEFINITION. The Address family: JP, CALL, LD I, JP V0 (`41_address.md` R110 to R113). -/

namespace Sys2Proof.Machine

/-- JP addr (R110). -/
def execJp (nnn : Addr) (s : State) : Host.Outcome State Fault Refusal := .next (s.jumpTo (addrOperand nnn))

/-- CALL addr: push the address of the next instruction and jump, or StackOverflow at capacity (R111, R201). -/
def execCall (nnn : Addr) (s : State) : Host.Outcome State Fault Refusal :=
  match s.push s.nextPc with
  | some t => .next (t.jumpTo (addrOperand nnn))
  | none => .next (s.raiseFault .stackOverflow)

/-- LD I,addr (R112). PRESUMED by the spec (D11), log entry 11. -/
def execLdIAddr (nnn : Addr) (s : State) : Host.Outcome State Fault Refusal :=
  .next (s.advance.writeI (addrOperand nnn))

/-- JP V0,addr: `nnn + V[0]`, always V0 (R113). PRESUMED by the spec (D11), log entry 11. -/
def execJpV0Addr (nnn : Addr) (s : State) : Host.Outcome State Fault Refusal := .next (s.jumpTo (v0Target s nnn))

end Sys2Proof.Machine
end

