-- ==== Sys2Proof/Machine/Control.lean ====
section
/-! DEFINITION. The step in mode Faulted, Unknown words, and the Control family: CLS and RET (`40_control.md` R103 to R106). -/

namespace Sys2Proof.Machine

/-- An Unknown word: a no-operation that advances PC (R104). Its report is the diagnostic output of the step
(`Machine/Outputs.lean`), not state (`60_exceptions.md` R205). -/
def execUnknown (s : State) : Host.Outcome State Fault Refusal := .next s.advance

/-- A step in mode Faulted reads nothing and changes nothing (R103). DESIGN CHOICE of the spec (D19), log entry 19. -/
def execFaulted (s : State) : Host.Outcome State Fault Refusal := .next s

/-- CLS: every pixel 0; no flag and no signal is written (R105). DESIGN CHOICE of the spec (D10), log entry 10, unsafe. -/
def execCls (s : State) : Host.Outcome State Fault Refusal := .next (s.writeFb FrameBuffer.blank).advance

/-- RET: pop into PC, or StackUnderflow when the stack is empty (R106, R202). -/
def execRet (s : State) : Host.Outcome State Fault Refusal :=
  match s.pop with
  | some (a, t) => .next (t.jumpTo a)
  | none => .next (s.raiseFault .stackUnderflow)

end Sys2Proof.Machine
end

