-- ==== Sys2Proof/Machine/Flags.lean ====
section
/-! DEFINITION. The values the six flag-writing instructions put in VF (`10_state.md` R32). -/

namespace Sys2Proof.Machine

/-- A flag as the byte VF receives: 1 or 0. -/
def flagByte (b : Bool) : Byte := if b then 1 else 0

/-- The carry of ADD Vx,Vy: the exact sum exceeds 255 (`43_reg_pair.md` R136). -/
def carryOf (a b : Byte) : Bool := decide (255 < a.toNat + b.toNat)

/-- No borrow in a - b: a >= b (R137, R139). -/
def noBorrow (a b : Byte) : Bool := decide (b.toNat ≤ a.toNat)

/-- The bit SHR shifts out, bit 0 before the shift (R138). -/
def shiftedOutRight (a : Byte) : Bool := a.getLsbD 0

/-- The bit SHL shifts out, bit 7 before the shift (R140). -/
def shiftedOutLeft (a : Byte) : Bool := a.getLsbD 7

/-- A pixel's collision: it was set and the sprite bit is set, so it goes from set to unset (`44_draw.md` R152). -/
def erases (old src : Bool) : Bool := old && src

end Sys2Proof.Machine
end

