-- ==== Sys2Proof/Machine/Draw.lean ====
section
/-! DEFINITION. The Draw family: DRW, the frame-buffer XOR writer (`44_draw.md` R150 to R153). A drawing in progress is
the frame buffer and whether a pixel has been erased so far. -/

namespace Sys2Proof.Machine

/-- The sprite bit of a column: column 0, the leftmost, is bit 7 (R151). PRESUMED by the spec (general knowledge, D12),
log entry 12, unsafe. -/
def spriteBit (b : Byte) (col : Nat) : Bool := b.getLsbD (7 - col)

/-- One pixel: XOR with the source bit, collision if it goes from set to unset (R150, R152). -/
def drawPixel (px py : Nat) (src : Bool) (d : FrameBuffer × Bool) : FrameBuffer × Bool :=
  (FrameBuffer.xorPixel d.1 px py src, d.2 || erases (FrameBuffer.pixel d.1 px py) src)

/-- The eight pixels of one sprite byte, wrapping at the right edge (R150, R151). -/
def drawRow (vx py : Nat) (b : Byte) (d : FrameBuffer × Bool) : FrameBuffer × Bool :=
  (List.range 8).foldl (fun e col => drawPixel ((vx + col) % 64) py (spriteBit b col) e) d

/-- The `n` rows of a sprite whose row `row` is the byte at I + row, wrapping at the bottom (R150, R151). -/
def drawSprite (s : State) (vx vy n : Nat) : FrameBuffer × Bool :=
  (List.range n).foldl (fun e row => drawRow vx ((vy + row) % 32) (s.memRead (indexed s row)) e) (s.fb, false)

/-- DRW Vx,Vy,n: the sprite, VF = collision, `draw_ready` raised whatever was drawn (R150, R153). -/
def execDrwVxVyN (x y : RegIdx) (n : Fin 16) (s : State) : Host.Outcome State Fault Refusal :=
  let d := drawSprite s (s.readV x).toNat (s.readV y).toNat n.val
  .next (((s.writeFb d.1).writeFlag (flagByte d.2)).signalDraw).advance

end Sys2Proof.Machine
end

