-- ==== Sys2Proof/Machine/Keyed.lean ====
section
/-! DEFINITION. The Keyed single-reg family: SKP, SKNP, the key wait, the timer moves, the index register forms, and the
loads and stores (`45_keyed_single_reg.md` R160 to R171). -/

namespace Sys2Proof.Machine

/-- SKP Vx: skip if the selected key is down (R160). -/
def execSkpVx (x : RegIdx) (s : State) : Host.Outcome State Fault Refusal :=
  .next (s.skipIf (keySelected s (s.readV x)))

/-- SKNP Vx: skip if the selected key is not down (R161). -/
def execSknpVx (x : RegIdx) (s : State) : Host.Outcome State Fault Refusal :=
  .next (s.skipIf (!keySelected s (s.readV x)))

/-- LD Vx,DT (R162). -/
def execLdVxDt (x : RegIdx) (s : State) : Host.Outcome State Fault Refusal :=
  .next (s.writeV x s.dt).advance

/-- LD Vx,K, the key wait: the lowest key down, or wait at the same PC (R163). That a found key clears
`awaiting_input` is the spec's D22, log entry 22. -/
def execLdVxK (x : RegIdx) (s : State) : Host.Outcome State Fault Refusal :=
  match s.lowestKeyDown with
  | some k => .next ((s.writeV x (BitVec.ofNat 8 k.val)).setWait false .running).advance
  | none => .next (s.setWait true .awaitingInput)

/-- LD DT,Vx (R164). -/
def execLdDtVx (x : RegIdx) (s : State) : Host.Outcome State Fault Refusal :=
  .next (s.writeDt (s.readV x)).advance

/-- LD ST,Vx (R165). -/
def execLdStVx (x : RegIdx) (s : State) : Host.Outcome State Fault Refusal :=
  .next (s.writeSt (s.readV x)).advance

/-- ADD I,Vx, no flag (R166). -/
def execAddIVx (x : RegIdx) (s : State) : Host.Outcome State Fault Refusal :=
  .next (s.writeI (indexSum s.i (s.readV x))).advance

/-- LD F,Vx (R167). -/
def execLdFVx (x : RegIdx) (s : State) : Host.Outcome State Fault Refusal :=
  .next (s.writeI (glyphAddr (s.readV x))).advance

/-- Store the three decimal digits of a byte at I, I + 1, I + 2 (R168). -/
def storeDigits (b : Byte) (s : State) : State :=
  ((s.memWrite (indexed s 0) (hundreds b)).memWrite (indexed s 1) (tens b)).memWrite (indexed s 2) (ones b)

/-- LD B,Vx (R168). -/
def execLdBVx (x : RegIdx) (s : State) : Host.Outcome State Fault Refusal :=
  .next (storeDigits (s.readV x) s).advance

/-- Store registers 0..=x at I, I + 1, .. (R169). -/
def storeRegs (x : RegIdx) (s : State) : State :=
  (regsUpTo x).foldl (fun t r => t.memWrite (indexed s r.val) (s.readV r)) s

/-- LD [I],Vx; I is unchanged (R169). DESIGN CHOICE of the spec (D16), log entry 16, unsafe. -/
def execLdMemVx (x : RegIdx) (s : State) : Host.Outcome State Fault Refusal :=
  .next (storeRegs x s).advance

/-- Load registers 0..=x from I, I + 1, .. (R170). -/
def loadRegs (x : RegIdx) (s : State) : State :=
  (regsUpTo x).foldl (fun t r => t.writeV r (s.memRead (indexed s r.val))) s

/-- LD Vx,[I]; I is unchanged (R170). DESIGN CHOICE of the spec (D16), log entry 16, unsafe. -/
def execLdVxMem (x : RegIdx) (s : State) : Host.Outcome State Fault Refusal :=
  .next (loadRegs x s).advance

end Sys2Proof.Machine
end

