-- ==== Sys2Proof/Machine/RegImm.lean ====
section
/-! DEFINITION. The Reg+imm family: SE, SNE, LD, ADD and RND with an immediate byte (`42_reg_imm.md` R120 to R124). -/

namespace Sys2Proof.Machine

/-- SE Vx,byte: skip if equal (R120). -/
def execSeVxByte (x : RegIdx) (kk : Byte) (s : State) : Host.Outcome State Fault Refusal :=
  .next (s.skipIf (s.readV x == kk))

/-- SNE Vx,byte: skip if not equal (R121). -/
def execSneVxByte (x : RegIdx) (kk : Byte) (s : State) : Host.Outcome State Fault Refusal :=
  .next (s.skipIf (s.readV x != kk))

/-- LD Vx,byte (R122). -/
def execLdVxByte (x : RegIdx) (kk : Byte) (s : State) : Host.Outcome State Fault Refusal :=
  .next (s.writeV x kk).advance

/-- ADD Vx,byte: the sum mod 256, no flag (R123). -/
def execAddVxByte (x : RegIdx) (kk : Byte) (s : State) : Host.Outcome State Fault Refusal :=
  .next (s.writeV x (sum8 (s.readV x) kk)).advance

/-- The effect of RND Vx,byte for a drawn byte `r`: `V[x] <- r AND kk` (R124). -/
def rndWith (r : Byte) (x : RegIdx) (kk : Byte) (s : State) : State := (s.writeV x (r &&& kk)).advance

/-- RND Vx,byte: the next free byte is drawn (R124). A FREE VALUE, log entry 33. -/
def execRndVxByte (x : RegIdx) (kk : Byte) (s : State) : Host.Outcome State Fault Refusal :=
  .next (rndWith (Config.rnd s.rndCount) x kk s).countDraw

end Sys2Proof.Machine
end

