-- ==== Sys2Proof/Machine/RegPair.lean ====
section
/-! DEFINITION. The Reg pair family, the ALU: SE, LD, OR, AND, XOR, ADD, SUB, SHR, SUBN, SHL, SNE
(`43_reg_pair.md` R130 to R142). Operands are read from the state before the instruction (R130). -/

namespace Sys2Proof.Machine

/-- SE Vx,Vy: skip if equal (R131). -/
def execSeVxVy (x y : RegIdx) (s : State) : Host.Outcome State Fault Refusal :=
  .next (s.skipIf (s.readV x == s.readV y))

/-- LD Vx,Vy (R132). -/
def execLdVxVy (x y : RegIdx) (s : State) : Host.Outcome State Fault Refusal :=
  .next (s.writeV x (s.readV y)).advance

/-- OR Vx,Vy, no flag (R133). -/
def execOrVxVy (x y : RegIdx) (s : State) : Host.Outcome State Fault Refusal :=
  .next (s.writeV x (s.readV x ||| s.readV y)).advance

/-- AND Vx,Vy, no flag (R134). -/
def execAndVxVy (x y : RegIdx) (s : State) : Host.Outcome State Fault Refusal :=
  .next (s.writeV x (s.readV x &&& s.readV y)).advance

/-- XOR Vx,Vy, no flag (R135). -/
def execXorVxVy (x y : RegIdx) (s : State) : Host.Outcome State Fault Refusal :=
  .next (s.writeV x (s.readV x ^^^ s.readV y)).advance

/-- ADD Vx,Vy: the sum mod 256, VF = carry (R136). -/
def execAddVxVy (x y : RegIdx) (s : State) : Host.Outcome State Fault Refusal :=
  .next (s.writeResultThenFlag x (sum8 (s.readV x) (s.readV y))
    (flagByte (carryOf (s.readV x) (s.readV y)))).advance

/-- SUB Vx,Vy: `V[x] - V[y]` mod 256, VF = no borrow (R137). -/
def execSubVxVy (x y : RegIdx) (s : State) : Host.Outcome State Fault Refusal :=
  .next (s.writeResultThenFlag x (diff8 (s.readV x) (s.readV y))
    (flagByte (noBorrow (s.readV x) (s.readV y)))).advance

/-- SHR Vx: V[x] itself, by one position, VF = bit 0 before the shift (R138). -/
def execShrVx (x : RegIdx) (s : State) : Host.Outcome State Fault Refusal :=
  .next (s.writeResultThenFlag x (shiftRight8 (s.readV x)) (flagByte (shiftedOutRight (s.readV x)))).advance

/-- SUBN Vx,Vy: `V[y] - V[x]` mod 256 into V[x], VF = no borrow (R139). -/
def execSubnVxVy (x y : RegIdx) (s : State) : Host.Outcome State Fault Refusal :=
  .next (s.writeResultThenFlag x (diff8 (s.readV y) (s.readV x))
    (flagByte (noBorrow (s.readV y) (s.readV x)))).advance

/-- SHL Vx: V[x] itself, by one position, VF = bit 7 before the shift (R140). -/
def execShlVx (x : RegIdx) (s : State) : Host.Outcome State Fault Refusal :=
  .next (s.writeResultThenFlag x (shiftLeft8 (s.readV x)) (flagByte (shiftedOutLeft (s.readV x)))).advance

/-- SNE Vx,Vy: skip if not equal (R141). -/
def execSneVxVy (x y : RegIdx) (s : State) : Host.Outcome State Fault Refusal :=
  .next (s.skipIf (s.readV x != s.readV y))

end Sys2Proof.Machine
end

