-- ==== Sys2Proof/Machine/Step.lean ====
section
/-! DEFINITION. The step event of the core (`40_control.md` R100) and the placing of a word where it fetches. -/

namespace Sys2Proof.Machine

/-- Run what the classifier read: the instruction's meaning, or the no-operation of an Unknown word (R100, R104). -/
def execClassified : Classified → State → Host.Outcome State Fault Refusal
  | .op i, s => exec i s
  | .unknown _, s => execUnknown s

/-- One `step`: fetch the word at PC, classify it, execute it; nothing in mode Faulted (R100, R103). -/
def step (s : State) : Host.Outcome State Fault Refusal :=
  if s.mode = .faulted then execFaulted s else execClassified (classify s.fetchWord) s

/-- `s` with the word whose bits are the low `nbits` bits of `w` at PC, its first byte at the lower address (R55). This
stands for the loading of a program from outside the machine (log entry 36). -/
def State.withFetchWord (s : State) (nbits w : Nat) : State :=
  (s.memWrite s.pc.toNat (firstByte (tableWord nbits w))).memWrite (s.pc.toNat + 1) (secondByte (tableWord nbits w))

end Sys2Proof.Machine
end

