-- ==== Sys2Proof/Machine/Disasm.lean ====
section
/-! DEFINITION. The mnemonic of every operation and the text of a word (`30_encoding.md` R82 to R84). The spacing, case
and number base are the spec's choice and not contractual (D32), log entry 32; only the mapping of operations to
mnemonics is fixed by the source. -/

namespace Sys2Proof.Machine

/-- The operation's name in R83. -/
def mnemonic : Instr → String
  | .cls _ => "CLS"
  | .ret _ => "RET"
  | .jp _ => "JP addr"
  | .call _ => "CALL addr"
  | .seVxByte _ _ => "SE Vx,byte"
  | .sneVxByte _ _ => "SNE Vx,byte"
  | .seVxVy _ _ => "SE Vx,Vy"
  | .ldVxByte _ _ => "LD Vx,byte"
  | .addVxByte _ _ => "ADD Vx,byte"
  | .ldVxVy _ _ => "LD Vx,Vy"
  | .orVxVy _ _ => "OR Vx,Vy"
  | .andVxVy _ _ => "AND Vx,Vy"
  | .xorVxVy _ _ => "XOR Vx,Vy"
  | .addVxVy _ _ => "ADD Vx,Vy"
  | .subVxVy _ _ => "SUB Vx,Vy"
  | .shrVx _ _ => "SHR Vx"
  | .subnVxVy _ _ => "SUBN Vx,Vy"
  | .shlVx _ _ => "SHL Vx"
  | .sneVxVy _ _ => "SNE Vx,Vy"
  | .ldIAddr _ => "LD I,addr"
  | .jpV0Addr _ => "JP V0,addr"
  | .rndVxByte _ _ => "RND Vx,byte"
  | .drwVxVyN _ _ _ => "DRW Vx,Vy,n"
  | .skpVx _ => "SKP Vx"
  | .sknpVx _ => "SKNP Vx"
  | .ldVxDt _ => "LD Vx,DT"
  | .ldVxK _ => "LD Vx,K"
  | .ldDtVx _ => "LD DT,Vx"
  | .ldStVx _ => "LD ST,Vx"
  | .addIVx _ => "ADD I,Vx"
  | .ldFVx _ => "LD F,Vx"
  | .ldBVx _ => "LD B,Vx"
  | .ldMemVx _ => "LD [I],Vx"
  | .ldVxMem _ => "LD Vx,[I]"

/-- One hexadecimal digit. -/
def hexDigit (n : Nat) : String := (["0", "1", "2", "3", "4", "5", "6", "7", "8", "9", "A", "B", "C", "D", "E", "F"]).getD n "0"

/-- `digits` hexadecimal digits with the prefix `0x` (R82). -/
def hexText (digits n : Nat) : String :=
  (List.range digits).foldr (fun k t => t ++ hexDigit (n / 16 ^ k % 16)) "0x"

/-- `V0` .. `VF` (R82). -/
def regText (x : RegIdx) : String := "V" ++ hexDigit x.val

/-- An instruction in the spelling of R82. -/
def instrText : Instr → String
  | .cls _ => "CLS"
  | .ret _ => "RET"
  | .jp nnn => "JP " ++ hexText 3 nnn.toNat
  | .call nnn => "CALL " ++ hexText 3 nnn.toNat
  | .seVxByte x kk => "SE " ++ regText x ++ "," ++ hexText 2 kk.toNat
  | .sneVxByte x kk => "SNE " ++ regText x ++ "," ++ hexText 2 kk.toNat
  | .seVxVy x y => "SE " ++ regText x ++ "," ++ regText y
  | .ldVxByte x kk => "LD " ++ regText x ++ "," ++ hexText 2 kk.toNat
  | .addVxByte x kk => "ADD " ++ regText x ++ "," ++ hexText 2 kk.toNat
  | .ldVxVy x y => "LD " ++ regText x ++ "," ++ regText y
  | .orVxVy x y => "OR " ++ regText x ++ "," ++ regText y
  | .andVxVy x y => "AND " ++ regText x ++ "," ++ regText y
  | .xorVxVy x y => "XOR " ++ regText x ++ "," ++ regText y
  | .addVxVy x y => "ADD " ++ regText x ++ "," ++ regText y
  | .subVxVy x y => "SUB " ++ regText x ++ "," ++ regText y
  | .shrVx x _ => "SHR " ++ regText x
  | .subnVxVy x y => "SUBN " ++ regText x ++ "," ++ regText y
  | .shlVx x _ => "SHL " ++ regText x
  | .sneVxVy x y => "SNE " ++ regText x ++ "," ++ regText y
  | .ldIAddr nnn => "LD I," ++ hexText 3 nnn.toNat
  | .jpV0Addr nnn => "JP V0," ++ hexText 3 nnn.toNat
  | .rndVxByte x kk => "RND " ++ regText x ++ "," ++ hexText 2 kk.toNat
  | .drwVxVyN x y n => "DRW " ++ regText x ++ "," ++ regText y ++ "," ++ hexText 1 n.val
  | .skpVx x => "SKP " ++ regText x
  | .sknpVx x => "SKNP " ++ regText x
  | .ldVxDt x => "LD " ++ regText x ++ ",DT"
  | .ldVxK x => "LD " ++ regText x ++ ",K"
  | .ldDtVx x => "LD DT," ++ regText x
  | .ldStVx x => "LD ST," ++ regText x
  | .addIVx x => "ADD I," ++ regText x
  | .ldFVx x => "LD F," ++ regText x
  | .ldBVx x => "LD B," ++ regText x
  | .ldMemVx x => "LD [I]," ++ regText x
  | .ldVxMem x => "LD " ++ regText x ++ ",[I]"

/-- The text of a word: its instruction, or the raw hex word (R84). -/
def wordText (w : Word) : String :=
  match classify w with
  | .op i => instrText i
  | .unknown u => hexText 4 u.toNat

/-- The listing of an image: one line for each 2-byte word in address order, without control-flow analysis (R84). A last
odd byte is the high byte of a word whose low byte is 0 (R254). -/
def listing : List Byte → List String
  | first :: second :: rest => wordText (wordOfBytes first second) :: listing rest
  | [last] => [wordText (wordOfBytes last 0)]
  | [] => []

end Sys2Proof.Machine
end

