-- ==== Sys2Proof/Machine/Outputs.lean ====
section
/-! DEFINITION. What a step tells the host beside the next state: the status and the diagnostic (`40_control.md` R102,
`60_exceptions.md` R205, R207), and the error kinds with their codes (R200). These outputs are not state (R205), so they
are functions of the state the step starts from. Log entries 20 to 22. -/

namespace Sys2Proof.Machine

/-- The status of a step (R102). -/
inductive Status where
  | normal
  | drawReady
  | awaitingInput
  | fault
deriving DecidableEq, Repr

/-- The 2-bit code of a status (R207). DESIGN CHOICE of the spec (D21), log entry 21. -/
def Status.code : Status → BitVec 2
  | .normal => 0
  | .drawReady => 1
  | .awaitingInput => 2
  | .fault => 3

/-- The diagnostic output of a step (R102, R205). -/
inductive Diag where
  | none
  | unknown (w : Word)
deriving DecidableEq, Repr

/-- The two outputs of a step. -/
structure StepOutput where
  status : Status
  diag : Diag
deriving DecidableEq, Repr

/-- The four error kinds, and no others (R200). -/
inductive ErrorKind where
  | unknownOpcode
  | stackOverflow
  | stackUnderflow
  | imageTooLarge
deriving DecidableEq, Repr

/-- The code of an error kind (R200). DESIGN CHOICE of the spec (D21), log entry 21. -/
def ErrorKind.code : ErrorKind → Nat
  | .unknownOpcode => 1
  | .stackOverflow => 2
  | .stackUnderflow => 3
  | .imageTooLarge => 4

/-- The error kind that `fault_kind` records, if any (R35, R200). -/
def FaultKind.errorKind : FaultKind → Option ErrorKind
  | .none => Option.none
  | .stackOverflow => some .stackOverflow
  | .stackUnderflow => some .stackUnderflow

/-- The error kind that a diagnostic reports, if any (R200, R205). -/
def Diag.errorKind : Diag → Option ErrorKind
  | .none => Option.none
  | .unknown _ => some .unknownOpcode

/-- The status of executing an instruction in a state: a CALL at SP = 16 or a RET at SP = 0 faults, a key wait with no
key down awaits input, a DRW is draw-ready, and every other step is normal (R102). -/
def statusAfter (i : Instr) (s : State) : Status :=
  match i with
  | .call _ => if s.sp.val = 16 then .fault else .normal
  | .ret _ => if s.sp.val = 0 then .fault else .normal
  | .ldVxK _ => if s.lowestKeyDown.isNone then .awaitingInput else .normal
  | .drwVxVyN _ _ _ => .drawReady
  | .cls _ | .jp _ | .ldIAddr _ | .jpV0Addr _ => .normal
  | .seVxByte _ _ | .sneVxByte _ _ | .ldVxByte _ _ | .addVxByte _ _ | .rndVxByte _ _ => .normal
  | .seVxVy _ _ | .sneVxVy _ _ | .ldVxVy _ _ | .orVxVy _ _ | .andVxVy _ _ | .xorVxVy _ _ => .normal
  | .addVxVy _ _ | .subVxVy _ _ | .subnVxVy _ _ | .shrVx _ _ | .shlVx _ _ => .normal
  | .skpVx _ | .sknpVx _ | .ldVxDt _ | .ldDtVx _ | .ldStVx _ => .normal
  | .addIVx _ | .ldFVx _ | .ldBVx _ | .ldMemVx _ | .ldVxMem _ => .normal

/-- The outputs of running what the classifier read (R102, R104). -/
def classifiedOutput : Classified → State → StepOutput
  | .op i, s => ⟨statusAfter i s, .none⟩
  | .unknown w, _ => ⟨.normal, .unknown w⟩

/-- The outputs of the step from a state; in mode Faulted the status is fault (R102, R103). -/
def stepOutput (s : State) : StepOutput :=
  if s.mode = .faulted then ⟨.fault, .none⟩ else classifiedOutput (classify s.fetchWord) s

end Sys2Proof.Machine
end

