-- ==== Sys2Proof/Machine/Events.lean ====
section
/-! DEFINITION. The events beside `step`: the timer unit's `tick`, the host's `set_key` and `pixel`, and `construct`
(`60_exceptions.md` R210, R217, R222; `70_reset_and_hazards.md` R250 to R254). -/

namespace Sys2Proof.Machine

/-- One count down, floor 0 (R210). -/
def countDown (b : Byte) : Byte := if b = 0 then 0 else b - 1

/-- `tick`: both timers count down and both signals clear; nothing in mode Faulted (R210). That it does nothing in
Faulted is a DESIGN CHOICE of the spec (D19), log entry 19. -/
def State.tick (s : State) : State :=
  if s.mode = .faulted then s
  else { s with dt := countDown s.dt, st := countDown s.st, drawReady := false, awaitingInput := false }

/-- `set_key(index, down)` (R217), in every mode (R204). -/
def State.setKey (s : State) (k : KeyIdx) (down : Bool) : State := { s with key := s.key.set k down }

/-- `pixel(x, y)`: true = set (R222). The state is not changed: the result is the answer alone. -/
def State.pixelAt (s : State) (x : Fin 64) (y : Fin 32) : Bool := FrameBuffer.pixel s.fb x.val y.val

/-- `construct(font, image)`: the block's only reset; an image longer than `PROG_MAX` is refused and no machine exists
(R250, R206). Memory is the font from 0x000, the image from 0x200, zero elsewhere (R252); every other element is at its
value in R39. The font is 80 bytes by type (R254). -/
def construct (font : Vector Byte 80) (image : List Byte) : Except ErrorKind State :=
  if Config.progMax < image.length then .error .imageTooLarge
  else .ok { State.reset with
    mem := Memory.writeBytes (Memory.writeBytes [] Config.fontBase font.toList) Config.progBase image }

end Sys2Proof.Machine
end

