-- ==== Sys2Proof/Machine/Schedule.lean ====
section
/-! DEFINITION. The order of events: any interleaving the host chooses (`00_scope.md` R5), and the documented schedule
`frame()` of the TickDriver (`60_exceptions.md` R214). Log entries 23, 29 and 30. -/

namespace Sys2Proof.Machine

/-- The events that can follow construction (R5). -/
inductive HostEvent where
  | step
  | tick
  | setKey (k : KeyIdx) (down : Bool)
  | pixel (x : Fin 64) (y : Fin 32)
deriving DecidableEq, Repr

/-- The state after one event. Each is atomic, and none overlaps another (R5, R219). -/
def applyEvent (s : State) : HostEvent → Host.Outcome State Fault Refusal
  | .step => Sys2Proof.Machine.step s
  | .tick => .next s.tick
  | .setKey k down => .next (s.setKey k down)
  | .pixel _ _ => .next s

/-- The state after a sequence of events, in the host's order (R5, R214). -/
def runEvents : List HostEvent → State → Host.Outcome State Fault Refusal
  | [], s => .next s
  | e :: rest, s =>
    match applyEvent s e with
    | .next t => runEvents rest t
    | .fault r => .fault r
    | .refused r => .refused r

/-- The burst of a frame: step until a status other than normal, or the budget is used; the answer is the state and the
last status (R214). -/
def burst : Nat → State → Host.Outcome (State × Status) Fault Refusal
  | 0, s => .next (s, .normal)
  | budget + 1, s =>
    match Sys2Proof.Machine.step s with
    | .next t =>
      match (stepOutput s).status with
      | .normal => burst budget t
      | .drawReady => .next (t, .drawReady)
      | .awaitingInput => .next (t, .awaitingInput)
      | .fault => .next (t, .fault)
    | .fault r => .fault r
    | .refused r => .refused r

/-- What a frame leaves: the state, and whether it reports Faulted to the caller (R204, R214). -/
structure FrameResult where
  state : State
  faulted : Bool
deriving DecidableEq, Repr

/-- `frame()` with `MAX_STEPS_PER_TICK` as an argument: a burst, then a `tick`; a fault ends the frame without one
(R214). DESIGN CHOICE of the spec (D23), log entry 23. -/
def frame (maxSteps : Nat) (s : State) : Host.Outcome FrameResult Fault Refusal :=
  match burst maxSteps s with
  | .next (t, .fault) => .next ⟨t, true⟩
  | .next (t, .normal) => .next ⟨t.tick, false⟩
  | .next (t, .drawReady) => .next ⟨t.tick, false⟩
  | .next (t, .awaitingInput) => .next ⟨t.tick, false⟩
  | .fault r => .fault r
  | .refused r => .refused r

end Sys2Proof.Machine
end

