-- ==== Sys2Proof/Safety.lean ====
section
/-! DEFINITION. The terms that claims use: which parts of the state an instruction may change (its frame), the invariant
of the machine, the sprite as the set of its pixels, and two relations between states that no instruction tells apart. -/

namespace Sys2Proof.Machine

/-! ### Frames -/

/-- The parts of the state beside the general registers and PC. `stack` is the return stack with its pointer, `mode` the
mode with the fault kind. -/
inductive Part where
  | i | stack | dt | st | mem | fb | key | drawReady | awaitingInput | mode | rndCount
deriving DecidableEq, Repr

/-- Every part not listed is the same in `t` as in `s`; memory is compared by reading each byte. -/
structure KeepsAllBut (changed : List Part) (s t : State) : Prop where
  i : Part.i ∉ changed → t.i = s.i
  stack : Part.stack ∉ changed → t.stack = s.stack ∧ t.sp = s.sp
  dt : Part.dt ∉ changed → t.dt = s.dt
  st : Part.st ∉ changed → t.st = s.st
  mem : Part.mem ∉ changed → ∀ a, t.memRead a = s.memRead a
  fb : Part.fb ∉ changed → t.fb = s.fb
  key : Part.key ∉ changed → t.key = s.key
  drawReady : Part.drawReady ∉ changed → t.drawReady = s.drawReady
  awaitingInput : Part.awaitingInput ∉ changed → t.awaitingInput = s.awaitingInput
  mode : Part.mode ∉ changed → t.mode = s.mode ∧ t.faultKind = s.faultKind
  rndCount : Part.rndCount ∉ changed → t.rndCount = s.rndCount

/-- Every general register not listed is the same in `t` as in `s`. -/
def KeepsRegsBut (changed : List RegIdx) (s t : State) : Prop := ∀ r, r ∉ changed → t.readV r = s.readV r

/-- The parts each instruction may change (the semantic rules of files 40 to 45; `10_state.md` R40, `20_memory.md`
R58). CALL and RET may enter Faulted (R201, R202); RND advances the model's draw counter. -/
def changedParts : Instr → List Part
  | .cls _ => [.fb]
  | .ret _ | .call _ => [.stack, .mode]
  | .ldIAddr _ | .addIVx _ | .ldFVx _ => [.i]
  | .rndVxByte _ _ => [.rndCount]
  | .drwVxVyN _ _ _ => [.fb, .drawReady]
  | .ldVxK _ => [.awaitingInput, .mode]
  | .ldDtVx _ => [.dt]
  | .ldStVx _ => [.st]
  | .ldBVx _ | .ldMemVx _ => [.mem]
  | .jp _ | .jpV0Addr _ | .seVxByte _ _ | .sneVxByte _ _ | .seVxVy _ _ | .sneVxVy _ _ | .skpVx _ | .sknpVx _ => []
  | .ldVxByte _ _ | .addVxByte _ _ | .ldVxVy _ _ | .orVxVy _ _ | .andVxVy _ _ | .xorVxVy _ _ => []
  | .addVxVy _ _ | .subVxVy _ _ | .shrVx _ _ | .subnVxVy _ _ | .shlVx _ _ | .ldVxDt _ | .ldVxMem _ => []

/-- How many bytes each instruction stores at I, I + 1, .. (`20_memory.md` R58). -/
def storedCount : Instr → Nat
  | .ldBVx _ => 3
  | .ldMemVx x => x.val + 1
  | .cls _ | .ret _ | .jp _ | .call _ | .ldIAddr _ | .jpV0Addr _ | .drwVxVyN _ _ _ => 0
  | .seVxByte _ _ | .sneVxByte _ _ | .ldVxByte _ _ | .addVxByte _ _ | .rndVxByte _ _ => 0
  | .seVxVy _ _ | .sneVxVy _ _ | .ldVxVy _ _ | .orVxVy _ _ | .andVxVy _ _ | .xorVxVy _ _ => 0
  | .addVxVy _ _ | .subVxVy _ _ | .subnVxVy _ _ | .shrVx _ _ | .shlVx _ _ => 0
  | .skpVx _ | .sknpVx _ | .ldVxDt _ | .ldVxK _ | .ldDtVx _ | .ldStVx _ | .addIVx _ | .ldFVx _ | .ldVxMem _ => 0

/-- The general registers each instruction may change (`10_state.md` R21, R32). -/
def changedRegs : Instr → List RegIdx
  | .ldVxByte x _ | .addVxByte x _ | .rndVxByte x _ | .ldVxVy x _ | .orVxVy x _ | .andVxVy x _ | .xorVxVy x _ => [x]
  | .addVxVy x _ | .subVxVy x _ | .shrVx x _ | .subnVxVy x _ | .shlVx x _ => [x, flagReg]
  | .drwVxVyN _ _ _ => [flagReg]
  | .ldVxDt x | .ldVxK x => [x]
  | .ldVxMem x => regsUpTo x
  | .cls _ | .ret _ | .jp _ | .call _ | .ldIAddr _ | .jpV0Addr _ => []
  | .seVxByte _ _ | .sneVxByte _ _ | .seVxVy _ _ | .sneVxVy _ _ | .skpVx _ | .sknpVx _ => []
  | .ldDtVx _ | .ldStVx _ | .addIVx _ | .ldFVx _ | .ldBVx _ | .ldMemVx _ => []

/-- How an instruction that does not fault leaves PC (`10_state.md` R24). -/
inductive PcEffect where
  /-- PC + 2 -/
  | advance
  /-- PC + 4 when the condition holds, else PC + 2 -/
  | skip
  /-- PC + 2 when a key is down, else unchanged -/
  | wait
  /-- set directly -/
  | set
deriving DecidableEq, Repr

/-- The row of R24 that each instruction stands in. -/
def pcEffect : Instr → PcEffect
  | .jp _ | .call _ | .ret _ | .jpV0Addr _ => .set
  | .seVxByte _ _ | .sneVxByte _ _ | .seVxVy _ _ | .sneVxVy _ _ | .skpVx _ | .sknpVx _ => .skip
  | .ldVxK _ => .wait
  | .cls _ | .ldVxByte _ _ | .addVxByte _ _ | .ldVxVy _ _ | .orVxVy _ _ | .andVxVy _ _ | .xorVxVy _ _ => .advance
  | .addVxVy _ _ | .subVxVy _ _ | .shrVx _ _ | .subnVxVy _ _ | .shlVx _ _ | .ldIAddr _ | .rndVxByte _ _ => .advance
  | .drwVxVyN _ _ _ | .ldVxDt _ | .ldDtVx _ | .ldStVx _ | .addIVx _ | .ldFVx _ => .advance
  | .ldBVx _ | .ldMemVx _ | .ldVxMem _ => .advance

/-! ### The invariant -/

/-- What every state of a run satisfies: memory is canonical; a fault kind is recorded exactly in mode Faulted; the
awaiting-input signal is up only outside Running; in AwaitingInput the word at PC is a key wait (`60_exceptions.md`
R215); after a stack fault PC is still at the CALL or RET and SP still at the bound it met (R200, R203). -/
structure Inv (s : State) : Prop where
  memWf : Memory.wf s.mem
  faulted_iff : s.mode = .faulted ↔ s.faultKind ≠ .none
  awaiting_mode : s.awaitingInput = true → s.mode ≠ .running
  wait_word : s.mode = .awaitingInput → ∃ x, classify s.fetchWord = .op (.ldVxK x)
  overflow : s.faultKind = .stackOverflow → s.sp.val = 16 ∧ ∃ nnn, classify s.fetchWord = .op (.call nnn)
  underflow : s.faultKind = .stackUnderflow → s.sp.val = 0 ∧ ∃ n2, classify s.fetchWord = .op (.ret n2)

/-! ### Sprites -/

/-- Whether the sprite of `n` rows at I covers pixel (px, py) with a set bit when drawn at (vx, vy): the pixel's
distance right of vx is the column, its distance below vy the row, both with wrap, and column 0 is bit 7 (`44_draw.md`
R150, R151). -/
def spriteCovers (s : State) (vx vy : Byte) (n : Nat) (px : Fin 64) (py : Fin 32) : Bool :=
  let col := (px.val + 64 - vx.toNat % 64) % 64
  let row := (py.val + 32 - vy.toNat % 32) % 32
  decide (col < 8) && decide (row < n) && (s.memRead (s.i.toNat + row)).getLsbD (7 - col)

/-! ### States that no instruction tells apart -/

/-- The two states differ at most in ST and the two signals, which no instruction reads (`10_state.md` R30, R33,
R34). -/
def SameButUnread (s t : State) : Prop :=
  t = { s with st := t.st, drawReady := t.drawReady, awaitingInput := t.awaitingInput }

/-- Two 16-bit values with the same low 12 bits. -/
def Low12 (a b : Word) : Prop := a.toNat % 4096 = b.toNat % 4096

/-- The two states differ at most in the high four bits of I, PC and the return addresses (`92_eei_decisions.md` D5,
D6). -/
structure SameLow12 (s t : State) : Prop where
  rest : t = { s with i := t.i, pc := t.pc, stack := t.stack }
  i : Low12 s.i t.i
  pc : Low12 s.pc t.pc
  stack : ∀ k : Fin 16, Low12 s.stack[k] t.stack[k]

/-- Whether an instruction reads the keyboard latch (`10_state.md` R31). -/
def readsLatch : Instr → Bool
  | .skpVx _ | .sknpVx _ | .ldVxK _ => true
  | .cls _ | .ret _ | .jp _ | .call _ | .ldIAddr _ | .jpV0Addr _ | .drwVxVyN _ _ _ => false
  | .seVxByte _ _ | .sneVxByte _ _ | .ldVxByte _ _ | .addVxByte _ _ | .rndVxByte _ _ => false
  | .seVxVy _ _ | .sneVxVy _ _ | .ldVxVy _ _ | .orVxVy _ _ | .andVxVy _ _ | .xorVxVy _ _ => false
  | .addVxVy _ _ | .subVxVy _ _ | .shrVx _ _ | .subnVxVy _ _ | .shlVx _ _ => false
  | .ldVxDt _ | .ldDtVx _ | .ldStVx _ | .addIVx _ | .ldFVx _ | .ldBVx _ | .ldMemVx _ | .ldVxMem _ => false

end Sys2Proof.Machine
end

