-- ==== Sys2Proof/Certificates/Slice0/Obligations.lean ====
section
/-! DEFINITION. The statements of this model for the provers. A statement that rests on a decision of the spec (marked
in `92_eei_decisions.md`) or on general knowledge says so in its docstring and names the log entry. -/

open Sys2Proof Sys2Proof.Machine

/-! ## Encoding -/

/-- Words written out from the spec's encodings (`95_test_vectors.md` section 2.1). The sub-opcodes are the spec's D2
(log entry 2), the ignored n2 its D3 (log entry 3). -/
def Obligations.SampleWordsDecode : Prop :=
  classify 0x07E0 = .op (.cls 7) ∧ classify 0x00EE = .op (.ret 0) ∧ classify 0x1ABC = .op (.jp 0xABC) ∧
  classify 0x2200 = .op (.call 0x200) ∧ classify 0x3A42 = .op (.seVxByte 10 0x42) ∧
  classify 0x6FAB = .op (.ldVxByte 15 0xAB) ∧ classify 0x8127 = .op (.subnVxVy 1 2) ∧
  classify 0x81F6 = .op (.shrVx 1 15) ∧ classify 0x9120 = .op (.sneVxVy 1 2) ∧
  classify 0xB300 = .op (.jpV0Addr 0x300) ∧ classify 0xD015 = .op (.drwVxVyN 0 1 5) ∧
  classify 0xE2A1 = .op (.sknpVx 2) ∧ classify 0xF233 = .op (.ldBVx 2) ∧ classify 0xF255 = .op (.ldMemVx 2) ∧
  classify 0x5AB1 = .unknown 0x5AB1 ∧ classify 0x0000 = .unknown 0x0000

/-- Decoding the word of a well-formed instruction gives it back, with every operand at every value, for either value of
`CTRL_N2_STRICT` (`30_encoding.md` sections 1 to 3). -/
def Obligations.DecodeOfEncodeIsTheInstruction : Prop :=
  ∀ (strict : Bool) (i : Instr), i.wellFormedWith strict = true → classifyWith strict (encode i) = .op i

/-- A word that decodes to an instruction is the word of that instruction, which is well-formed: no bit of a word is
dropped (`30_encoding.md` sections 1 to 3). -/
def Obligations.EncodeOfDecodeIsTheWord : Prop :=
  ∀ (strict : Bool) (w : Word) (i : Instr), classifyWith strict w = .op i →
    encode i = w ∧ i.wellFormedWith strict = true

/-- The Unknown words are exactly those of R81's list, and carry themselves. The numeric values are the spec's D2 and D3
(log entries 2 and 3). -/
def Obligations.UnknownWordsAreExactlyTheListed : Prop :=
  ∀ w u : Word, classify w = .unknown u ↔ u = w ∧
    ((w.toNat / 4096 = 0 ∧ ¬ (w.toNat / 16 % 16 = 0xE ∧ (w.toNat % 16 = 0 ∨ w.toNat % 16 = 0xE))) ∨
     (w.toNat / 4096 = 5 ∧ w.toNat % 16 ≠ 0) ∨
     (w.toNat / 4096 = 9 ∧ w.toNat % 16 ≠ 0) ∨
     (w.toNat / 4096 = 8 ∧ w.toNat % 16 ∈ [0x8, 0x9, 0xA, 0xB, 0xC, 0xD, 0xF]) ∨
     (w.toNat / 4096 = 0xE ∧ w.toNat % 256 ∉ [0x9E, 0xA1]) ∨
     (w.toNat / 4096 = 0xF ∧
       w.toNat % 256 ∉ [0x07, 0x0A, 0x15, 0x18, 0x1E, 0x29, 0x33, 0x55, 0x65]))

/-- No word matches two rows of the opcode table, and the decoder and the table agree on every word (R85, R86). -/
def Obligations.OpcodeTableIsDisjointAndTheDecoderFollowsIt : Prop :=
  opcodeRows.length = 34 ∧
  List.Pairwise (fun r q => ∀ w : Word, ¬ (r.accepts w = true ∧ q.accepts w = true)) opcodeRows ∧
  (∀ (w : Word) (i : Instr), classify w = .op i → opcodeRow i ∈ opcodeRows ∧ (opcodeRow i).accepts w = true) ∧
  (∀ (w : Word) (r : OpcodeRow), r ∈ opcodeRows → r.accepts w = true → ∃ i, classify w = .op i ∧ opcodeRow i = r)

/-- The Control family for both values of `CTRL_N2_STRICT`: n3 = E, n4 = 0 or E, and n2 = 0 when strict (R76). The
parameter is the spec's D3 (log entry 3), n4 its D2 (log entry 2). -/
def Obligations.ControlWordsForBothParameterValues : Prop :=
  ∀ (strict : Bool) (w : Word), w.toNat / 4096 = 0 →
    ((w.toNat / 16 % 16 = 0xE ∧ w.toNat % 16 = 0 ∧ (strict = true → w.toNat / 256 % 16 = 0)) →
      classifyWith strict w = .op (.cls (nibble2 w))) ∧
    ((w.toNat / 16 % 16 = 0xE ∧ w.toNat % 16 = 0xE ∧ (strict = true → w.toNat / 256 % 16 = 0)) →
      classifyWith strict w = .op (.ret (nibble2 w))) ∧
    (¬ (w.toNat / 16 % 16 = 0xE ∧ (w.toNat % 16 = 0 ∨ w.toNat % 16 = 0xE) ∧
        (strict = true → w.toNat / 256 % 16 = 0)) →
      classifyWith strict w = .unknown w)

/-! ## The step -/

/-- When the bytes at PC decode to an instruction, the step is that instruction's meaning and its outputs are that
instruction's (`40_control.md` section 1). -/
def Obligations.StepRunsTheDecodedInstruction : Prop :=
  ∀ (s : State) (i : Instr), s.mode ≠ .faulted →
    decodeBytes (s.memRead s.pc.toNat) (s.memRead (s.pc.toNat + 1)) = .op i →
    Sys2Proof.Machine.step s = exec i s ∧ stepOutput s = ⟨statusAfter i s, .none⟩

/-- A fetch takes the byte at PC mod 4096 as the high half and the byte at (PC + 1) mod 4096 as the low half, whatever
PC is (R55, R57). The order is the spec's D1 (log entry 1), the reduction its D5 and D6 (log entries 5 and 6). -/
def Obligations.FetchReadsTheHighByteFirstAndWraps : Prop :=
  ∀ s : State, s.fetchWord.toNat =
    256 * (Memory.readAt s.mem (s.pc.toNat % 4096)).toNat + (Memory.readAt s.mem ((s.pc.toNat + 1) % 4096)).toNat

/-- A word placed at PC is the word fetched; nothing but its two bytes changes; and a step runs it. The placing stands
for the loading of a program (log entry 36). -/
def Obligations.PlacedWordIsFetchedAndRun : Prop :=
  ∀ (s : State) (w : Nat), w < 65536 →
    (s.withFetchWord 16 w).fetchWord = BitVec.ofNat 16 w ∧
    (∀ a, wrapAddr a ≠ wrapAddr s.pc.toNat → wrapAddr a ≠ wrapAddr (s.pc.toNat + 1) →
      (s.withFetchWord 16 w).memRead a = s.memRead a) ∧
    KeepsAllBut [.mem] s (s.withFetchWord 16 w) ∧ KeepsRegsBut [] s (s.withFetchWord 16 w) ∧
    (∀ i, s.mode ≠ .faulted → decodeTableWord 16 w = some i →
      Sys2Proof.Machine.step (s.withFetchWord 16 w) = exec i (s.withFetchWord 16 w))

/-- An Unknown word advances PC by 2 and changes nothing else; status normal, the word reported (R104, R205). That PC
advances resolves conflict C2; the channel of the report is the spec's D20 (log entry 20). -/
def Obligations.UnknownWordOnlyAdvancesPc : Prop :=
  ∀ (s : State) (w : Word), s.mode ≠ .faulted → classify s.fetchWord = .unknown w →
    Sys2Proof.Machine.step s = .next { s with pc := s.pc + 2 } ∧ stepOutput s = ⟨.normal, .unknown w⟩

/-- In mode Faulted nothing that any sequence of events does changes any state but the keyboard latch, and a step reports
fault (R103, R204, R210). That step and tick do nothing there is the spec's D19 (log entry 19). -/
def Obligations.FaultedMachineIsFrozen : Prop :=
  ∀ (es : List HostEvent) (s t : State), s.mode = .faulted → runEvents es s = .next t →
    t = { s with key := t.key } ∧ stepOutput t = ⟨.fault, .none⟩ ∧ Sys2Proof.Machine.step t = .next t ∧ t.tick = t

/-- Every event is enabled in every state and has a next state: no step stops, whatever the state and the word
(`93_implementation_defined.md` section 1). -/
def Obligations.EveryEventHasANextState : Prop :=
  (∀ (i : Instr) (s : State), ∃ t, exec i s = .next t) ∧
  (∀ s : State, ∃ t, Sys2Proof.Machine.step s = .next t) ∧
  (∀ (es : List HostEvent) (s : State), ∃ t, runEvents es s = .next t)

/-- What each instruction leaves unchanged: every part of the state and every register it is not listed to write, and every
byte of memory but the bytes it stores, which start at I (`10_state.md` sections 1, 3 to 6 and 10, `20_memory.md`
section 5). These clauses are choices: CLS leaves `draw_ready` (D10, log entry 10), LD and ADD with a byte leave VF (D11,
log entry 11), the block copies leave I (D16, log entry 16), a faulting CALL or RET leaves all but the mode and the kind
(D18, log entry 18); and the draw counter, which RND alone changes, is the model's own (D33, log entry 33). -/
def Obligations.EveryInstructionKeepsWhatItDoesNotWrite : Prop :=
  ∀ (i : Instr) (s t : State), exec i s = .next t →
    KeepsAllBut (changedParts i) s t ∧ KeepsRegsBut (changedRegs i) s t ∧
    ∀ a, (∀ k, k < storedCount i → wrapAddr a ≠ wrapAddr (indexed s k)) → t.memRead a = s.memRead a

/-- How PC moves: by 2, by 2 or 4 for a skip, by 2 or not for the key wait (`10_state.md` section 2). What sets it
directly is stated with each instruction. -/
def Obligations.PcMovesByTwoUnlessTheInstructionSkipsWaitsOrJumps : Prop :=
  ∀ (i : Instr) (s t : State), exec i s = .next t →
    (pcEffect i = .advance → t.pc = s.pc + 2) ∧
    (pcEffect i = .skip → t.pc = s.pc + 2 ∨ t.pc = s.pc + 4) ∧
    (pcEffect i = .wait → (t.pc = s.pc + 2 ∧ ∃ k : KeyIdx, s.key[k] = true) ∨
      (t.pc = s.pc ∧ ∀ k : KeyIdx, s.key[k] = false))

/-- The status says what the step did: fault exactly when the machine is Faulted after it, draw-ready exactly after DRW,
awaiting-input exactly after a key wait with no key down, and the diagnostic exactly the Unknown word (R102). The split
of status from signal bits is the spec's D22, the diagnostic its D20 (log entries 22 and 20). -/
def Obligations.StatusTellsWhatTheStepDid : Prop :=
  ∀ s t : State, Sys2Proof.Machine.step s = .next t →
    ((stepOutput s).status = .fault ↔ t.mode = .faulted) ∧
    ((stepOutput s).status = .drawReady ↔
      s.mode ≠ .faulted ∧ ∃ x y n, classify s.fetchWord = .op (.drwVxVyN x y n)) ∧
    ((stepOutput s).status = .awaitingInput ↔
      s.mode ≠ .faulted ∧ (∃ x, classify s.fetchWord = .op (.ldVxK x)) ∧ ∀ k : KeyIdx, s.key[k] = false) ∧
    (∀ w, (stepOutput s).diag = .unknown w ↔ s.mode ≠ .faulted ∧ classify s.fetchWord = .unknown w)

/-! ## Faults and modes -/

/-- The fault entry of CALL at SP = 16 and RET at SP = 0: mode and fault kind, nothing else, status fault; and no other
instruction enters Faulted (R200 to R203). That nothing else changes is the spec's D18 (log entry 18). -/
def Obligations.StackFaultsAreTheOnlyFaults : Prop :=
  (∀ (nnn : Addr) (s : State), s.sp.val = 16 →
    exec (.call nnn) s = .next { s with mode := .faulted, faultKind := .stackOverflow } ∧
    statusAfter (.call nnn) s = .fault) ∧
  (∀ (n2 : Nibble) (s : State), s.sp.val = 0 →
    exec (.ret n2) s = .next { s with mode := .faulted, faultKind := .stackUnderflow } ∧
    statusAfter (.ret n2) s = .fault) ∧
  (∀ (i : Instr) (s t : State), s.mode ≠ .faulted → exec i s = .next t → t.mode = .faulted →
    (∃ nnn, i = .call nnn ∧ s.sp.val = 16) ∨ (∃ n2, i = .ret n2 ∧ s.sp.val = 0))

/-- The transitions between Running, AwaitingInput and Faulted (R215). In AwaitingInput the invariant is assumed: it
says that the word at PC is the key wait. -/
def Obligations.ModesChangeOnlyAsTheTableSays : Prop :=
  (∀ s t : State, s.mode = .running → Sys2Proof.Machine.step s = .next t →
    (t.mode = .awaitingInput ↔
      (∃ x, classify s.fetchWord = .op (.ldVxK x)) ∧ ∀ k : KeyIdx, s.key[k] = false) ∧
    (t.mode = .faulted ↔
      ((∃ nnn, classify s.fetchWord = .op (.call nnn)) ∧ s.sp.val = 16) ∨
      ((∃ n2, classify s.fetchWord = .op (.ret n2)) ∧ s.sp.val = 0))) ∧
  (∀ s t : State, Inv s → s.mode = .awaitingInput → Sys2Proof.Machine.step s = .next t →
    ((∃ k : KeyIdx, s.key[k] = true) → t.mode = .running) ∧
    ((∀ k : KeyIdx, s.key[k] = false) → t.mode = .awaitingInput)) ∧
  (∀ s t : State, s.mode = .faulted → Sys2Proof.Machine.step s = .next t → t.mode = .faulted) ∧
  (∀ s : State, s.tick.mode = s.mode) ∧
  (∀ (s : State) (k : KeyIdx) (down : Bool), (s.setKey k down).mode = s.mode)

/-! ## The invariant -/

/-- The state after reset satisfies the invariant. Its clauses rest on choices: the canonical form of memory is the model's
(log entry 34), the signal that is down at reset is the spec's D7 (log entry 7), the fault kind None its D18 (log entry
18). -/
def Obligations.InvariantHoldsAtReset : Prop := Inv State.reset

/-- Every state that construction gives satisfies the invariant, whatever the font and the image. Its clauses rest on
choices: the canonical form of memory is the model's (log entry 34), the signal that is down after construction is the
spec's D7 (log entry 7), the fault kind None its D18 (log entry 18). -/
def Obligations.InvariantHoldsAfterConstruction : Prop :=
  ∀ (font : Vector Byte 80) (image : List Byte) (s : State), construct font image = .ok s → Inv s

/-- Every step from a state of the invariant gives a state of the invariant: memory stays canonical, the fault kind is
recorded exactly in Faulted, in AwaitingInput the word at PC is a key wait, and a Faulted machine still stands at the
CALL or RET that faulted (R37, R200, R215). The canonical form of memory is the model's (log entry 34); the clauses on the
fault kind and on the faulting instruction rest on the spec's D18 (log entry 18). -/
def Obligations.InvariantIsKeptByEveryStep : Prop :=
  ∀ s t : State, Inv s → Sys2Proof.Machine.step s = .next t → Inv t

/-- Every interleaving of steps, ticks, key changes and pixel queries keeps the invariant (R5, R214). The canonical form of
memory is the model's (log entry 34); the clauses on the fault kind and on the faulting instruction rest on the spec's D18
(log entry 18), that a Faulted machine ignores step and tick on its D19 (log entry 19). -/
def Obligations.InvariantIsKeptByEverySchedule : Prop :=
  ∀ (es : List HostEvent) (s t : State), Inv s → runEvents es s = .next t → Inv t

/-! ## Construction and reset -/

/-- What construction leaves in memory: the font at 0x000..0x04F, zero at 0x050..0x1FF, the image from 0x200, zero after
it; an image that would pass 0xFFF is refused (R252). That every other image is accepted, the empty one and those of odd
length included, is the spec's D26 (R254, log entry 26). -/
def Obligations.ConstructionLoadsFontAndImage : Prop :=
  ∀ (font : Vector Byte 80) (image : List Byte),
    (0x1000 < 0x200 + image.length → construct font image = .error .imageTooLarge) ∧
    (0x200 + image.length ≤ 0x1000 → ∃ s, construct font image = .ok s ∧
      (∀ k : Fin 80, s.memRead k.val = font[k]) ∧
      (∀ a, 0x50 ≤ a → a < 0x200 → s.memRead a = 0) ∧
      (∀ k : Fin image.length, s.memRead (0x200 + k.val) = image[k]) ∧
      (∀ a, 0x200 + image.length ≤ a → a < 0x1000 → s.memRead a = 0))

/-- An image longer than 3584 bytes is refused with ImageTooLarge and there is no machine; one of exactly 3584 bytes is
accepted and fills 0x200..0xFFF (R206). -/
def Obligations.ImageTooLargeIsRefused : Prop :=
  (∀ (font : Vector Byte 80) (image : List Byte), 3584 < image.length →
    construct font image = .error .imageTooLarge) ∧
  (∀ (font : Vector Byte 80) (image : List Byte), image.length = 3584 → ∃ s, construct font image = .ok s ∧
    ∀ k : Fin image.length, s.memRead (0x200 + k.val) = image[k])

/-- The state after reset (R39): memory and mode are the source's; the zeros are the spec's D7, PC its D8, the fault kind
its D18, the font bytes its D9 (log entries 7, 8, 18 and 9). It is what construction gives for the default font and an
empty image. -/
def Obligations.ResetLeavesTheStatedValues : Prop :=
  (∀ r, State.reset.readV r = 0) ∧ State.reset.i = 0 ∧ State.reset.pc = 0x200 ∧ State.reset.sp = 0 ∧
  (∀ k : Fin 16, State.reset.stack[k] = 0) ∧ State.reset.dt = 0 ∧ State.reset.st = 0 ∧
  (∀ (x : Fin 64) (y : Fin 32), State.reset.pixelAt x y = false) ∧ (∀ k : KeyIdx, State.reset.key[k] = false) ∧
  State.reset.drawReady = false ∧ State.reset.awaitingInput = false ∧ State.reset.mode = .running ∧
  State.reset.faultKind = .none ∧ (∀ k : Fin 80, State.reset.memRead k.val = Config.font[k]) ∧
  (∀ a, 0x50 ≤ a → a < 0x1000 → State.reset.memRead a = 0) ∧ construct Config.font [] = .ok State.reset

/-- The canonical form is canonical: two memories in it that read the same at every address are the same list. The form
is the model's (log entry 34). -/
def Obligations.CanonicalMemoriesThatReadAlikeAreEqual : Prop :=
  ∀ m n : Memory, Memory.wf m → Memory.wf n → (∀ a, a < 4096 → Memory.readAt m a = Memory.readAt n a) → m = n

/-! ## Control and Address families -/

/-- CLS sets every pixel to 0, writes no flag and neither signal, and advances PC (R105). The whole effect is the spec's
D10 (log entry 10). -/
def Obligations.ClsClearsEveryPixel : Prop :=
  ∀ (n2 : Nibble) (s : State), ∃ t, exec (.cls n2) s = .next t ∧ statusAfter (.cls n2) s = .normal ∧
    (∀ (x : Fin 64) (y : Fin 32), t.pixelAt x y = false) ∧ t.pc = s.pc + 2 ∧
    KeepsRegsBut [] s t ∧ KeepsAllBut [.fb] s t

/-- RET with a return address pops it into PC and leaves the entry in place (R106). The count form of SP and the stale
entry are the spec's D17 (log entry 17). -/
def Obligations.RetPopsTheReturnAddress : Prop :=
  ∀ (n2 : Nibble) (s : State) (k : Fin 16), s.sp.val = k.val + 1 →
    ∃ t, exec (.ret n2) s = .next t ∧ statusAfter (.ret n2) s = .normal ∧
      t.pc = s.stack[k] ∧ t.sp.val = k.val ∧ t.stack = s.stack ∧
      KeepsRegsBut [] s t ∧ KeepsAllBut [.stack] s t

/-- CALL pushes the address of the next instruction and jumps; at SP = 16 it raises StackOverflow, writes no entry and
keeps SP and PC (R111). The frame of the fault is the spec's D18 and stands in `StackFaultsAreTheOnlyFaults`. -/
def Obligations.CallPushesTheNextAddressOrOverflows : Prop :=
  (∀ (nnn : Addr) (s : State) (k : Fin 16), s.sp.val = k.val →
    ∃ t, exec (.call nnn) s = .next t ∧ statusAfter (.call nnn) s = .normal ∧
      t.stack[k].toNat = (s.pc.toNat + 2) % 65536 ∧ (∀ j : Fin 16, j ≠ k → t.stack[j] = s.stack[j]) ∧
      t.sp.val = k.val + 1 ∧ t.pc.toNat = nnn.toNat ∧ KeepsRegsBut [] s t ∧ KeepsAllBut [.stack] s t) ∧
  (∀ (nnn : Addr) (s : State), s.sp.val = 16 →
    ∃ t, exec (.call nnn) s = .next t ∧ statusAfter (.call nnn) s = .fault ∧
      t.mode = .faulted ∧ t.faultKind = .stackOverflow ∧ t.pc = s.pc ∧ t.sp = s.sp ∧ t.stack = s.stack)

/-- CALL, then anything that leaves the stack as CALL left it, then RET: PC is the address after the CALL and SP is as
before it (`95_test_vectors.md` S7). -/
def Obligations.RetReturnsBehindItsCall : Prop :=
  ∀ (nnn : Addr) (n2 : Nibble) (s t u : State), s.sp.val < 16 → exec (.call nnn) s = .next t →
    u.stack = t.stack → u.sp = t.sp →
    ∃ v, exec (.ret n2) u = .next v ∧ v.pc = s.pc + 2 ∧ v.sp = s.sp ∧ v.mode = u.mode

/-- JP sets PC to nnn and nothing else, whatever the target; a JP to its own address leaves the whole state unchanged
(R110). -/
def Obligations.JpSetsPcToTheAddress : Prop :=
  ∀ (nnn : Addr) (s : State), ∃ t, exec (.jp nnn) s = .next t ∧ statusAfter (.jp nnn) s = .normal ∧
    t.pc.toNat = nnn.toNat ∧ KeepsRegsBut [] s t ∧ KeepsAllBut [] s t ∧ (s.pc.toNat = nnn.toNat → t = s)

/-- LD I,addr loads the 12-bit address; JP V0,addr sets PC to the 16-bit sum of nnn and V0 (R112, R113). Both meanings are
the spec's D11 (log entry 11). -/
def Obligations.LoadIndexAndOffsetJump : Prop :=
  (∀ (nnn : Addr) (s : State), ∃ t, exec (.ldIAddr nnn) s = .next t ∧ statusAfter (.ldIAddr nnn) s = .normal ∧
    t.i.toNat = nnn.toNat ∧ t.pc = s.pc + 2 ∧ KeepsRegsBut [] s t ∧ KeepsAllBut [.i] s t) ∧
  (∀ (nnn : Addr) (s : State), ∃ t, exec (.jpV0Addr nnn) s = .next t ∧ statusAfter (.jpV0Addr nnn) s = .normal ∧
    t.pc.toNat = nnn.toNat + (s.readV 0).toNat ∧ KeepsRegsBut [] s t ∧ KeepsAllBut [] s t)

/-! ## Skips, loads and the ALU -/

/-- The four comparing skips: PC + 4 when the condition holds, else PC + 2, nothing else (R120, R121, R131, R141). That SE
skips if equal and SNE if not is general knowledge of the spec (G6, log entry 11). -/
def Obligations.ComparingSkips : Prop :=
  (∀ (x : RegIdx) (kk : Byte) (s : State),
    (s.readV x = kk → exec (.seVxByte x kk) s = .next { s with pc := s.pc + 4 } ∧
      exec (.sneVxByte x kk) s = .next { s with pc := s.pc + 2 }) ∧
    (s.readV x ≠ kk → exec (.seVxByte x kk) s = .next { s with pc := s.pc + 2 } ∧
      exec (.sneVxByte x kk) s = .next { s with pc := s.pc + 4 }) ∧
    statusAfter (.seVxByte x kk) s = .normal ∧ statusAfter (.sneVxByte x kk) s = .normal) ∧
  (∀ (x y : RegIdx) (s : State),
    (s.readV x = s.readV y → exec (.seVxVy x y) s = .next { s with pc := s.pc + 4 } ∧
      exec (.sneVxVy x y) s = .next { s with pc := s.pc + 2 }) ∧
    (s.readV x ≠ s.readV y → exec (.seVxVy x y) s = .next { s with pc := s.pc + 2 } ∧
      exec (.sneVxVy x y) s = .next { s with pc := s.pc + 4 }) ∧
    statusAfter (.seVxVy x y) s = .normal ∧ statusAfter (.sneVxVy x y) s = .normal)

/-- LD Vx,byte and ADD Vx,byte: the byte, or the sum mod 256, into V[x], VF written only as V[x] (R122, R123). The meanings
are the spec's D11 (log entry 11). -/
def Obligations.LoadAndAddImmediate : Prop :=
  (∀ (x : RegIdx) (kk : Byte) (s : State),
    ∃ t, exec (.ldVxByte x kk) s = .next t ∧ statusAfter (.ldVxByte x kk) s = .normal ∧
      t.readV x = kk ∧ t.pc = s.pc + 2 ∧ KeepsRegsBut [x] s t ∧ KeepsAllBut [] s t) ∧
  (∀ (x : RegIdx) (kk : Byte) (s : State),
    ∃ t, exec (.addVxByte x kk) s = .next t ∧ statusAfter (.addVxByte x kk) s = .normal ∧
      (t.readV x).toNat = ((s.readV x).toNat + kk.toNat) % 256 ∧ t.pc = s.pc + 2 ∧
      KeepsRegsBut [x] s t ∧ KeepsAllBut [] s t)

/-- RND stores a drawn byte ANDed with kk, whatever byte is drawn: bits that are 0 in kk are 0 (R124). The drawn byte is a
free value (log entry 33), of which nothing is said. -/
def Obligations.RndMasksAFreeByte : Prop :=
  ∀ (x : RegIdx) (kk : Byte) (s : State),
    (∃ t, exec (.rndVxByte x kk) s = .next t ∧ statusAfter (.rndVxByte x kk) s = .normal ∧
      (∃ r : Byte, r = Config.rnd s.rndCount ∧ t.readV x = r &&& kk) ∧ t.readV x &&& ~~~kk = 0 ∧
      t.rndCount = s.rndCount + 1 ∧ t.pc = s.pc + 2 ∧ KeepsRegsBut [x] s t ∧ KeepsAllBut [.rndCount] s t) ∧
    (∀ r : Byte, (rndWith r x kk s).readV x = r &&& kk ∧ (rndWith r x kk s).pc = s.pc + 2 ∧
      KeepsRegsBut [x] s (rndWith r x kk s) ∧ KeepsAllBut [] s (rndWith r x kk s))

/-- LD, OR, AND, XOR on two registers: bit by bit, into V[x], no flag side effect (R132 to R135). -/
def Obligations.CopyAndLogicWriteOnlyTheDestination : Prop :=
  ∀ (x y : RegIdx) (s : State),
    (∃ t, exec (.ldVxVy x y) s = .next t ∧ statusAfter (.ldVxVy x y) s = .normal ∧
      t.readV x = s.readV y ∧ t.pc = s.pc + 2 ∧ KeepsRegsBut [x] s t ∧ KeepsAllBut [] s t) ∧
    (∃ t, exec (.orVxVy x y) s = .next t ∧ statusAfter (.orVxVy x y) s = .normal ∧
      (∀ k, (t.readV x).getLsbD k = ((s.readV x).getLsbD k || (s.readV y).getLsbD k)) ∧
      t.pc = s.pc + 2 ∧ KeepsRegsBut [x] s t ∧ KeepsAllBut [] s t) ∧
    (∃ t, exec (.andVxVy x y) s = .next t ∧ statusAfter (.andVxVy x y) s = .normal ∧
      (∀ k, (t.readV x).getLsbD k = ((s.readV x).getLsbD k && (s.readV y).getLsbD k)) ∧
      t.pc = s.pc + 2 ∧ KeepsRegsBut [x] s t ∧ KeepsAllBut [] s t) ∧
    (∃ t, exec (.xorVxVy x y) s = .next t ∧ statusAfter (.xorVxVy x y) s = .normal ∧
      (∀ k, (t.readV x).getLsbD k = ((s.readV x).getLsbD k ^^ (s.readV y).getLsbD k)) ∧
      t.pc = s.pc + 2 ∧ KeepsRegsBut [x] s t ∧ KeepsAllBut [] s t)

/-- ADD, SUB and SUBN on two registers: the result mod 256 in V[x] and the carry or no-borrow in VF, for all registers x
and y, either of which may be VF (R136, R137, R139). With x = F VF holds the flag: that order is the spec's D13 (log
entry 13) and has its own statement. -/
def Obligations.AddSubSubnResultAndFlag : Prop :=
  ∀ (x y : RegIdx) (s : State),
    (∃ t, exec (.addVxVy x y) s = .next t ∧ statusAfter (.addVxVy x y) s = .normal ∧
      (x ≠ flagReg → (t.readV x).toNat = ((s.readV x).toNat + (s.readV y).toNat) % 256) ∧
      t.readV flagReg = (if (s.readV x).toNat + (s.readV y).toNat > 255 then 1 else 0) ∧
      t.pc = s.pc + 2 ∧ KeepsRegsBut [x, flagReg] s t ∧ KeepsAllBut [] s t) ∧
    (∃ t, exec (.subVxVy x y) s = .next t ∧ statusAfter (.subVxVy x y) s = .normal ∧
      (x ≠ flagReg → (t.readV x).toNat = ((s.readV x).toNat + 256 - (s.readV y).toNat) % 256) ∧
      t.readV flagReg = (if (s.readV x).toNat ≥ (s.readV y).toNat then 1 else 0) ∧
      t.pc = s.pc + 2 ∧ KeepsRegsBut [x, flagReg] s t ∧ KeepsAllBut [] s t) ∧
    (∃ t, exec (.subnVxVy x y) s = .next t ∧ statusAfter (.subnVxVy x y) s = .normal ∧
      (x ≠ flagReg → (t.readV x).toNat = ((s.readV y).toNat + 256 - (s.readV x).toNat) % 256) ∧
      t.readV flagReg = (if (s.readV y).toNat ≥ (s.readV x).toNat then 1 else 0) ∧
      t.pc = s.pc + 2 ∧ KeepsRegsBut [x, flagReg] s t ∧ KeepsAllBut [] s t)

/-- SHR and SHL: V[x] itself shifted by one position, the bit shifted out in VF, whatever the ignored nibble (R138, R140).
With x = F VF holds the flag: that order is the spec's D13 (log entry 13) and has its own statement. -/
def Obligations.ShrShlResultAndFlag : Prop :=
  ∀ (x : RegIdx) (n3 : Nibble) (s : State),
    (∃ t, exec (.shrVx x n3) s = .next t ∧ statusAfter (.shrVx x n3) s = .normal ∧
      (x ≠ flagReg → (t.readV x).toNat = (s.readV x).toNat / 2) ∧
      (t.readV flagReg).toNat = (s.readV x).toNat % 2 ∧
      t.pc = s.pc + 2 ∧ KeepsRegsBut [x, flagReg] s t ∧ KeepsAllBut [] s t) ∧
    (∃ t, exec (.shlVx x n3) s = .next t ∧ statusAfter (.shlVx x n3) s = .normal ∧
      (x ≠ flagReg → (t.readV x).toNat = 2 * (s.readV x).toNat % 256) ∧
      (t.readV flagReg).toNat = (s.readV x).toNat / 128 ∧
      t.pc = s.pc + 2 ∧ KeepsRegsBut [x, flagReg] s t ∧ KeepsAllBut [] s t)

/-- With x = F the five flag-writing ALU instructions leave only the flag in VF, computed from the old values, and the
result is lost (R130). The whole statement is the spec's D13 (log entry 13). -/
def Obligations.FlagIsWrittenAfterTheResult : Prop :=
  ∀ (y : RegIdx) (n3 : Nibble) (s : State),
    (∃ t, exec (.addVxVy flagReg y) s = .next t ∧ KeepsRegsBut [flagReg] s t ∧
      t.readV flagReg = (if (s.readV flagReg).toNat + (s.readV y).toNat > 255 then 1 else 0)) ∧
    (∃ t, exec (.subVxVy flagReg y) s = .next t ∧ KeepsRegsBut [flagReg] s t ∧
      t.readV flagReg = (if (s.readV flagReg).toNat ≥ (s.readV y).toNat then 1 else 0)) ∧
    (∃ t, exec (.subnVxVy flagReg y) s = .next t ∧ KeepsRegsBut [flagReg] s t ∧
      t.readV flagReg = (if (s.readV y).toNat ≥ (s.readV flagReg).toNat then 1 else 0)) ∧
    (∃ t, exec (.shrVx flagReg n3) s = .next t ∧ KeepsRegsBut [flagReg] s t ∧
      (t.readV flagReg).toNat = (s.readV flagReg).toNat % 2) ∧
    (∃ t, exec (.shlVx flagReg n3) s = .next t ∧ KeepsRegsBut [flagReg] s t ∧
      (t.readV flagReg).toNat = (s.readV flagReg).toNat / 128)

/-! ## The sprite writer -/

/-- DRW: every pixel of the 2048 is XORed with the sprite's bit there, both axes wrapping; VF is 1 exactly when a set pixel
met a set bit, else 0; the signal is raised; I, memory and every other register stay (R150 to R152). That bit 7 of a byte
is the left pixel is the spec's D12 (log entry 12); that a draw of no rows still writes VF and raises the signal is its D14
(log entry 14). -/
def Obligations.DrwXorsTheSpriteIntoTheFrameBuffer : Prop :=
  ∀ (x y : RegIdx) (n : Fin 16) (s : State),
    ∃ t, exec (.drwVxVyN x y n) s = .next t ∧ statusAfter (.drwVxVyN x y n) s = .drawReady ∧
      (∀ (px : Fin 64) (py : Fin 32), t.pixelAt px py =
        (s.pixelAt px py ^^ spriteCovers s (s.readV x) (s.readV y) n.val px py)) ∧
      ((∃ (px : Fin 64) (py : Fin 32), s.pixelAt px py = true ∧
        spriteCovers s (s.readV x) (s.readV y) n.val px py = true) → t.readV flagReg = 1) ∧
      ((∀ (px : Fin 64) (py : Fin 32), spriteCovers s (s.readV x) (s.readV y) n.val px py = true →
        s.pixelAt px py = false) → t.readV flagReg = 0) ∧
      t.drawReady = true ∧ t.pc = s.pc + 2 ∧ KeepsRegsBut [flagReg] s t ∧ KeepsAllBut [.fb, .drawReady] s t

/-- VF after DRW is 1 exactly when some pixel went from set to unset, and 0 otherwise (R152); this does not depend on the
order of the bits in a sprite byte. -/
def Obligations.DrwFlagIsSetExactlyByAnErasure : Prop :=
  ∀ (x y : RegIdx) (n : Fin 16) (s t : State), exec (.drwVxVyN x y n) s = .next t →
    ((∃ (px : Fin 64) (py : Fin 32), s.pixelAt px py = true ∧ t.pixelAt px py = false) ↔ t.readV flagReg = 1) ∧
    ((¬ ∃ (px : Fin 64) (py : Fin 32), s.pixelAt px py = true ∧ t.pixelAt px py = false) ↔ t.readV flagReg = 0)

/-- The same sprite drawn twice at the same place restores every pixel (R153). VF of the second draw is 1 exactly when a
sprite bit fell on a pixel that was unset before the first: R153 says 'if the sprite has any set bit', which R150 and R152
give only then (log entry 39, DEDUCED). The coordinates must not be VF, which the first draw writes. -/
def Obligations.DrwTwiceRestoresTheFrameBuffer : Prop :=
  ∀ (x y : RegIdx) (n : Fin 16) (s t u : State), x ≠ flagReg → y ≠ flagReg →
    exec (.drwVxVyN x y n) s = .next t → exec (.drwVxVyN x y n) t = .next u →
    (∀ (px : Fin 64) (py : Fin 32), u.pixelAt px py = s.pixelAt px py) ∧
    (u.readV flagReg = 1 ↔ ∃ (px : Fin 64) (py : Fin 32),
      spriteCovers s (s.readV x) (s.readV y) n.val px py = true ∧ s.pixelAt px py = false)

/-- A sprite of no rows, or of zero bytes only, changes no pixel, gives VF = 0, still raises the signal, advances PC, and
changes nothing else (R153). That it writes VF and raises the signal is the spec's D14 (log entry 14). -/
def Obligations.DrwOfABlankSpriteOnlyClearsVfAndRaisesTheSignal : Prop :=
  ∀ (x y : RegIdx) (n : Fin 16) (s : State), (∀ row, row < n.val → s.memRead (s.i.toNat + row) = 0) →
    ∃ t, exec (.drwVxVyN x y n) s = .next t ∧ statusAfter (.drwVxVyN x y n) s = .drawReady ∧
      t.fb = s.fb ∧ t.readV flagReg = 0 ∧ t.drawReady = true ∧ t.pc = s.pc + 2 ∧
      KeepsRegsBut [flagReg] s t ∧ KeepsAllBut [.drawReady] s t

/-! ## The keyed single-reg family -/

/-- SKP and SKNP test the key numbered V[x] mod 16, PC + 4 when it is down (SKP) or up (SKNP), else PC + 2, nothing else
(R160, R161, R171). A number above 15 is the spec's D15 (log entry 15); under the other value of `KEY_INDEX_OOR` such a
key is never down. -/
def Obligations.KeySkipsTestTheLatch : Prop :=
  (∀ (x : RegIdx) (s : State) (k : KeyIdx), (s.readV x).toNat % 16 = k.val →
    (s.key[k] = true → exec (.skpVx x) s = .next { s with pc := s.pc + 4 } ∧
      exec (.sknpVx x) s = .next { s with pc := s.pc + 2 }) ∧
    (s.key[k] = false → exec (.skpVx x) s = .next { s with pc := s.pc + 2 } ∧
      exec (.sknpVx x) s = .next { s with pc := s.pc + 4 }) ∧
    statusAfter (.skpVx x) s = .normal ∧ statusAfter (.sknpVx x) s = .normal) ∧
  (∀ (s : State) (b : Byte), 15 < b.toNat → keySelectedWith .notDown s b = false) ∧
  (∀ (s : State) (b : Byte), b.toNat ≤ 15 → keySelectedWith .notDown s b = keySelectedWith .mask4 s b)

/-- The key wait: with a key down V[x] receives the lowest one and the machine goes on in Running; with none down nothing
changes but the signal and the mode, and PC stays (R163). That a found key clears the signal is the spec's D22 (log entry
22). -/
def Obligations.KeyWaitTakesTheLowestKeyOrWaits : Prop :=
  (∀ (x : RegIdx) (s : State) (k : KeyIdx), s.key[k] = true → (∀ j : KeyIdx, j < k → s.key[j] = false) →
    ∃ t, exec (.ldVxK x) s = .next t ∧ statusAfter (.ldVxK x) s = .normal ∧
      (t.readV x).toNat = k.val ∧ t.awaitingInput = false ∧ t.mode = .running ∧ t.faultKind = s.faultKind ∧
      t.pc = s.pc + 2 ∧ KeepsRegsBut [x] s t ∧ KeepsAllBut [.awaitingInput, .mode] s t) ∧
  (∀ (x : RegIdx) (s : State), (∀ k : KeyIdx, s.key[k] = false) →
    exec (.ldVxK x) s = .next { s with awaitingInput := true, mode := .awaitingInput } ∧
    statusAfter (.ldVxK x) s = .awaitingInput)

/-- As long as no key goes down, any number of steps at a key wait leaves the state where the first left it: the core never
blocks and nothing else runs (R163, R225). -/
def Obligations.KeyWaitHoldsUntilAKeyIsDown : Prop :=
  ∀ (n : Nat) (x : RegIdx) (s : State), s.mode ≠ .faulted → classify s.fetchWord = .op (.ldVxK x) →
    (∀ k : KeyIdx, s.key[k] = false) →
    Host.Core.run Sys2Proof.core (n + 1) s = .next { s with awaitingInput := true, mode := .awaitingInput }

/-- LD Vx,DT, LD DT,Vx and LD ST,Vx: direct copies, the source unchanged (R162, R164, R165). -/
def Obligations.TimerMovesCopy : Prop :=
  (∀ (x : RegIdx) (s : State), ∃ t, exec (.ldVxDt x) s = .next t ∧ statusAfter (.ldVxDt x) s = .normal ∧
    t.readV x = s.dt ∧ t.pc = s.pc + 2 ∧ KeepsRegsBut [x] s t ∧ KeepsAllBut [] s t) ∧
  (∀ (x : RegIdx) (s : State), ∃ t, exec (.ldDtVx x) s = .next t ∧ statusAfter (.ldDtVx x) s = .normal ∧
    t.dt = s.readV x ∧ t.pc = s.pc + 2 ∧ KeepsRegsBut [] s t ∧ KeepsAllBut [.dt] s t) ∧
  (∀ (x : RegIdx) (s : State), ∃ t, exec (.ldStVx x) s = .next t ∧ statusAfter (.ldStVx x) s = .normal ∧
    t.st = s.readV x ∧ t.pc = s.pc + 2 ∧ KeepsRegsBut [] s t ∧ KeepsAllBut [.st] s t)

/-- ADD I,Vx keeps the 16-bit sum and writes no flag; LD F,Vx is 5 times the whole byte (R166, R167). The ranges are the
spec's D28 (log entry 28). -/
def Obligations.IndexArithmetic : Prop :=
  (∀ (x : RegIdx) (s : State), ∃ t, exec (.addIVx x) s = .next t ∧ statusAfter (.addIVx x) s = .normal ∧
    t.i.toNat = (s.i.toNat + (s.readV x).toNat) % 65536 ∧ t.pc = s.pc + 2 ∧
    KeepsRegsBut [] s t ∧ KeepsAllBut [.i] s t) ∧
  (∀ (x : RegIdx) (s : State), ∃ t, exec (.ldFVx x) s = .next t ∧ statusAfter (.ldFVx x) s = .normal ∧
    t.i.toNat = 5 * (s.readV x).toNat ∧ t.pc = s.pc + 2 ∧ KeepsRegsBut [] s t ∧ KeepsAllBut [.i] s t)

/-- LD B,Vx stores the hundreds, tens and ones digits of V[x] at I, I + 1, I + 2 mod 4096, and every other byte of memory
reads as before (R168). -/
def Obligations.LdBStoresThreeDecimalDigits : Prop :=
  ∀ (x : RegIdx) (s : State), ∃ t, exec (.ldBVx x) s = .next t ∧ statusAfter (.ldBVx x) s = .normal ∧
    (t.memRead s.i.toNat).toNat = (s.readV x).toNat / 100 ∧
    (t.memRead (s.i.toNat + 1)).toNat = (s.readV x).toNat / 10 % 10 ∧
    (t.memRead (s.i.toNat + 2)).toNat = (s.readV x).toNat % 10 ∧
    (∀ a, a % 4096 ≠ s.i.toNat % 4096 → a % 4096 ≠ (s.i.toNat + 1) % 4096 → a % 4096 ≠ (s.i.toNat + 2) % 4096 →
      t.memRead a = s.memRead a) ∧
    t.pc = s.pc + 2 ∧ KeepsRegsBut [] s t ∧ KeepsAllBut [.mem] s t

/-- LD [I],Vx stores V[0]..V[x] at I, I + 1, .. mod 4096, every other byte reads as before, and I stays (R169). That I stays
is the spec's D16 (log entry 16). -/
def Obligations.BlockStoreWritesRegistersUpToX : Prop :=
  ∀ (x : RegIdx) (s : State), ∃ t, exec (.ldMemVx x) s = .next t ∧ statusAfter (.ldMemVx x) s = .normal ∧
    (∀ r : RegIdx, r ≤ x → t.memRead (s.i.toNat + r.val) = s.readV r) ∧
    (∀ a, (∀ r : RegIdx, r ≤ x → a % 4096 ≠ (s.i.toNat + r.val) % 4096) → t.memRead a = s.memRead a) ∧
    t.pc = s.pc + 2 ∧ KeepsRegsBut [] s t ∧ KeepsAllBut [.mem] s t

/-- LD Vx,[I] loads V[0]..V[x] from I, I + 1, .. mod 4096, the registers above x stay, and so does I (R170). That I stays is
the spec's D16 (log entry 16). -/
def Obligations.BlockLoadReadsRegistersUpToX : Prop :=
  ∀ (x : RegIdx) (s : State), ∃ t, exec (.ldVxMem x) s = .next t ∧ statusAfter (.ldVxMem x) s = .normal ∧
    (∀ r : RegIdx, r ≤ x → t.readV r = s.memRead (s.i.toNat + r.val)) ∧
    (∀ r : RegIdx, x < r → t.readV r = s.readV r) ∧
    t.pc = s.pc + 2 ∧ KeepsAllBut [] s t

/-- A block store followed by a block load of the same registers at the same I gives every register back, wherever I lies:
the two forms are inverse (R169, R170). -/
def Obligations.BlockLoadUndoesBlockStore : Prop :=
  ∀ (x : RegIdx) (s t u w : State), exec (.ldMemVx x) s = .next t → u.mem = t.mem → u.i = s.i →
    exec (.ldVxMem x) u = .next w → ∀ r : RegIdx, r ≤ x → w.readV r = s.readV r

/-- A store is seen by the very next fetch: two registers stored over the next instruction are the next word (R64). This is
the spec's D27 (log entry 27); that V0 is the high half of the word is its D1 (R55, PRESUMED, log entry 1). -/
def Obligations.StoredBytesAreTheNextWordFetched : Prop :=
  ∀ (x : RegIdx) (s t : State), 1 ≤ x.val → s.i.toNat % 4096 = (s.pc.toNat + 2) % 4096 →
    exec (.ldMemVx x) s = .next t → t.fetchWord.toNat = 256 * (s.readV 0).toNat + (s.readV 1).toNat

/-! ## Timers, latch, schedule -/

/-- A tick lowers each timer by one, floor 0, clears both signals, and touches nothing else; in Faulted it does nothing
(R210). The Faulted clause is the spec's D19 (log entry 19). -/
def Obligations.TickCountsBothTimersDown : Prop :=
  ∀ s : State,
    (s.mode ≠ .faulted → s.tick.dt.toNat = s.dt.toNat - 1 ∧ s.tick.st.toNat = s.st.toNat - 1 ∧
      s.tick.drawReady = false ∧ s.tick.awaitingInput = false ∧ s.tick.pc = s.pc ∧
      KeepsRegsBut [] s s.tick ∧ KeepsAllBut [.dt, .st, .drawReady, .awaitingInput] s s.tick) ∧
    (s.mode = .faulted → s.tick = s)

/-- No step changes a timer but LD DT,Vx and LD ST,Vx: timers count ticks, not instructions (R211). -/
def Obligations.StepsDoNotCountTimers : Prop :=
  ∀ s t : State, Sys2Proof.Machine.step s = .next t →
    (t.dt = s.dt ∨ ∃ x, classify s.fetchWord = .op (.ldDtVx x) ∧ t.dt = s.readV x) ∧
    (t.st = s.st ∨ ∃ x, classify s.fetchWord = .op (.ldStVx x) ∧ t.st = s.readV x)

/-- `set_key` writes one flag and nothing else, and is the only writer of the latch: no step and no tick changes a key
(R217). -/
def Obligations.SetKeyIsTheOnlyWriterOfTheLatch : Prop :=
  (∀ (s : State) (k : KeyIdx) (down : Bool), (s.setKey k down).key[k] = down ∧
    (∀ j : KeyIdx, j ≠ k → (s.setKey k down).key[j] = s.key[j]) ∧
    s.setKey k down = { s with key := (s.setKey k down).key }) ∧
  (∀ s t : State, Sys2Proof.Machine.step s = .next t → t.key = s.key) ∧ (∀ s : State, s.tick.key = s.key)

/-- A burst of budget n runs k ≤ n steps one after another (one at least, if n is not 0), each but the last of status
normal, and stops short of n only at a status other than normal; the frame then ticks once, unless the burst ended in a fault (R214). The fault clause is the
spec's D23 (log entry 23). -/
def Obligations.FrameIsABurstOfStepsAndOneTick : Prop :=
  ∀ (n : Nat) (s : State), ∃ k t st, k ≤ n ∧ burst n s = .next (t, st) ∧ Host.Core.run Sys2Proof.core k s = .next t ∧
    (∀ j, j < k → ∃ u : State, Host.Core.run Sys2Proof.core j s = .next u ∧
      (stepOutput u).status = if j + 1 = k then st else .normal) ∧
    (0 < n → 0 < k) ∧ (k < n → st ≠ .normal) ∧ (k = 0 → st = .normal) ∧
    (st ≠ .fault → frame n s = .next ⟨t.tick, false⟩) ∧
    (st = .fault → t.mode = .faulted ∧ frame n s = .next ⟨t, true⟩)

/-! ## Isolation -/

/-- No instruction reads ST or the two signals: two states that differ only there step alike, with the same outputs, to
states that differ only there (R30, R33, R34). -/
def Obligations.StepsDoNotReadStOrTheSignals : Prop :=
  ∀ s t s' : State, SameButUnread s t → Sys2Proof.Machine.step s = .next s' →
    ∃ t', Sys2Proof.Machine.step t = .next t' ∧ SameButUnread s' t' ∧ stepOutput s = stepOutput t

/-- The high four bits of I, PC and the return addresses are unobservable: two states that differ only there step alike,
with the same outputs, to states that differ only there. This is what the spec's D5 and D6 claim of their alternatives
(log entries 5 and 6). -/
def Obligations.HighAddressBitsAreUnobservable : Prop :=
  ∀ s t s' : State, SameLow12 s t → Sys2Proof.Machine.step s = .next s' →
    ∃ t', Sys2Proof.Machine.step t = .next t' ∧ SameLow12 s' t' ∧ stepOutput s = stepOutput t

/-- A key change and a step of an instruction that does not read the latch commute, outputs included: the latch reaches a
program only through SKP, SKNP and the key wait (R31, R65). -/
def Obligations.KeyChangesCommuteWithOtherSteps : Prop :=
  ∀ (s t : State) (k : KeyIdx) (down : Bool),
    (∀ i, classify s.fetchWord = .op i → readsLatch i = false) → Sys2Proof.Machine.step s = .next t →
    Sys2Proof.Machine.step (s.setKey k down) = .next (t.setKey k down) ∧ stepOutput (s.setKey k down) = stepOutput s
end

