-- ==== Sys2Proof/Laws/State.lean ====
section
/-! SUPPORT. What each named operation does to each field of the state: one lemma for each field of each operation, true
by unfolding, so that no later proof opens a record update. -/

namespace Sys2Proof.Machine

variable (s : State)

@[simp] theorem State.writeV_v (x : RegIdx) (b : Byte) : (s.writeV x b).v = s.v.set x b := rfl
@[simp] theorem State.writeV_i (x : RegIdx) (b : Byte) : (s.writeV x b).i = s.i := rfl
@[simp] theorem State.writeV_pc (x : RegIdx) (b : Byte) : (s.writeV x b).pc = s.pc := rfl
@[simp] theorem State.writeV_sp (x : RegIdx) (b : Byte) : (s.writeV x b).sp = s.sp := rfl
@[simp] theorem State.writeV_stack (x : RegIdx) (b : Byte) : (s.writeV x b).stack = s.stack := rfl
@[simp] theorem State.writeV_dt (x : RegIdx) (b : Byte) : (s.writeV x b).dt = s.dt := rfl
@[simp] theorem State.writeV_st (x : RegIdx) (b : Byte) : (s.writeV x b).st = s.st := rfl
@[simp] theorem State.writeV_mem (x : RegIdx) (b : Byte) : (s.writeV x b).mem = s.mem := rfl
@[simp] theorem State.writeV_fb (x : RegIdx) (b : Byte) : (s.writeV x b).fb = s.fb := rfl
@[simp] theorem State.writeV_key (x : RegIdx) (b : Byte) : (s.writeV x b).key = s.key := rfl
@[simp] theorem State.writeV_drawReady (x : RegIdx) (b : Byte) : (s.writeV x b).drawReady = s.drawReady := rfl
@[simp] theorem State.writeV_awaitingInput (x : RegIdx) (b : Byte) : (s.writeV x b).awaitingInput = s.awaitingInput := rfl
@[simp] theorem State.writeV_mode (x : RegIdx) (b : Byte) : (s.writeV x b).mode = s.mode := rfl
@[simp] theorem State.writeV_faultKind (x : RegIdx) (b : Byte) : (s.writeV x b).faultKind = s.faultKind := rfl
@[simp] theorem State.writeV_rndCount (x : RegIdx) (b : Byte) : (s.writeV x b).rndCount = s.rndCount := rfl

@[simp] theorem State.writeFlag_v (b : Byte) : (s.writeFlag b).v = s.v.set flagReg b := rfl
@[simp] theorem State.writeFlag_i (b : Byte) : (s.writeFlag b).i = s.i := rfl
@[simp] theorem State.writeFlag_pc (b : Byte) : (s.writeFlag b).pc = s.pc := rfl
@[simp] theorem State.writeFlag_sp (b : Byte) : (s.writeFlag b).sp = s.sp := rfl
@[simp] theorem State.writeFlag_stack (b : Byte) : (s.writeFlag b).stack = s.stack := rfl
@[simp] theorem State.writeFlag_dt (b : Byte) : (s.writeFlag b).dt = s.dt := rfl
@[simp] theorem State.writeFlag_st (b : Byte) : (s.writeFlag b).st = s.st := rfl
@[simp] theorem State.writeFlag_mem (b : Byte) : (s.writeFlag b).mem = s.mem := rfl
@[simp] theorem State.writeFlag_fb (b : Byte) : (s.writeFlag b).fb = s.fb := rfl
@[simp] theorem State.writeFlag_key (b : Byte) : (s.writeFlag b).key = s.key := rfl
@[simp] theorem State.writeFlag_drawReady (b : Byte) : (s.writeFlag b).drawReady = s.drawReady := rfl
@[simp] theorem State.writeFlag_awaitingInput (b : Byte) : (s.writeFlag b).awaitingInput = s.awaitingInput := rfl
@[simp] theorem State.writeFlag_mode (b : Byte) : (s.writeFlag b).mode = s.mode := rfl
@[simp] theorem State.writeFlag_faultKind (b : Byte) : (s.writeFlag b).faultKind = s.faultKind := rfl
@[simp] theorem State.writeFlag_rndCount (b : Byte) : (s.writeFlag b).rndCount = s.rndCount := rfl

@[simp] theorem State.writeResultThenFlag_v (x : RegIdx) (a b : Byte) : (s.writeResultThenFlag x a b).v = (s.v.set x a).set flagReg b := rfl
@[simp] theorem State.writeResultThenFlag_i (x : RegIdx) (a b : Byte) : (s.writeResultThenFlag x a b).i = s.i := rfl
@[simp] theorem State.writeResultThenFlag_pc (x : RegIdx) (a b : Byte) : (s.writeResultThenFlag x a b).pc = s.pc := rfl
@[simp] theorem State.writeResultThenFlag_sp (x : RegIdx) (a b : Byte) : (s.writeResultThenFlag x a b).sp = s.sp := rfl
@[simp] theorem State.writeResultThenFlag_stack (x : RegIdx) (a b : Byte) : (s.writeResultThenFlag x a b).stack = s.stack := rfl
@[simp] theorem State.writeResultThenFlag_dt (x : RegIdx) (a b : Byte) : (s.writeResultThenFlag x a b).dt = s.dt := rfl
@[simp] theorem State.writeResultThenFlag_st (x : RegIdx) (a b : Byte) : (s.writeResultThenFlag x a b).st = s.st := rfl
@[simp] theorem State.writeResultThenFlag_mem (x : RegIdx) (a b : Byte) : (s.writeResultThenFlag x a b).mem = s.mem := rfl
@[simp] theorem State.writeResultThenFlag_fb (x : RegIdx) (a b : Byte) : (s.writeResultThenFlag x a b).fb = s.fb := rfl
@[simp] theorem State.writeResultThenFlag_key (x : RegIdx) (a b : Byte) : (s.writeResultThenFlag x a b).key = s.key := rfl
@[simp] theorem State.writeResultThenFlag_drawReady (x : RegIdx) (a b : Byte) : (s.writeResultThenFlag x a b).drawReady = s.drawReady := rfl
@[simp] theorem State.writeResultThenFlag_awaitingInput (x : RegIdx) (a b : Byte) : (s.writeResultThenFlag x a b).awaitingInput = s.awaitingInput := rfl
@[simp] theorem State.writeResultThenFlag_mode (x : RegIdx) (a b : Byte) : (s.writeResultThenFlag x a b).mode = s.mode := rfl
@[simp] theorem State.writeResultThenFlag_faultKind (x : RegIdx) (a b : Byte) : (s.writeResultThenFlag x a b).faultKind = s.faultKind := rfl
@[simp] theorem State.writeResultThenFlag_rndCount (x : RegIdx) (a b : Byte) : (s.writeResultThenFlag x a b).rndCount = s.rndCount := rfl

@[simp] theorem State.writeI_v (a : Word) : (s.writeI a).v = s.v := rfl
@[simp] theorem State.writeI_i (a : Word) : (s.writeI a).i = a := rfl
@[simp] theorem State.writeI_pc (a : Word) : (s.writeI a).pc = s.pc := rfl
@[simp] theorem State.writeI_sp (a : Word) : (s.writeI a).sp = s.sp := rfl
@[simp] theorem State.writeI_stack (a : Word) : (s.writeI a).stack = s.stack := rfl
@[simp] theorem State.writeI_dt (a : Word) : (s.writeI a).dt = s.dt := rfl
@[simp] theorem State.writeI_st (a : Word) : (s.writeI a).st = s.st := rfl
@[simp] theorem State.writeI_mem (a : Word) : (s.writeI a).mem = s.mem := rfl
@[simp] theorem State.writeI_fb (a : Word) : (s.writeI a).fb = s.fb := rfl
@[simp] theorem State.writeI_key (a : Word) : (s.writeI a).key = s.key := rfl
@[simp] theorem State.writeI_drawReady (a : Word) : (s.writeI a).drawReady = s.drawReady := rfl
@[simp] theorem State.writeI_awaitingInput (a : Word) : (s.writeI a).awaitingInput = s.awaitingInput := rfl
@[simp] theorem State.writeI_mode (a : Word) : (s.writeI a).mode = s.mode := rfl
@[simp] theorem State.writeI_faultKind (a : Word) : (s.writeI a).faultKind = s.faultKind := rfl
@[simp] theorem State.writeI_rndCount (a : Word) : (s.writeI a).rndCount = s.rndCount := rfl

@[simp] theorem State.jumpTo_v (a : Word) : (s.jumpTo a).v = s.v := rfl
@[simp] theorem State.jumpTo_i (a : Word) : (s.jumpTo a).i = s.i := rfl
@[simp] theorem State.jumpTo_pc (a : Word) : (s.jumpTo a).pc = a := rfl
@[simp] theorem State.jumpTo_sp (a : Word) : (s.jumpTo a).sp = s.sp := rfl
@[simp] theorem State.jumpTo_stack (a : Word) : (s.jumpTo a).stack = s.stack := rfl
@[simp] theorem State.jumpTo_dt (a : Word) : (s.jumpTo a).dt = s.dt := rfl
@[simp] theorem State.jumpTo_st (a : Word) : (s.jumpTo a).st = s.st := rfl
@[simp] theorem State.jumpTo_mem (a : Word) : (s.jumpTo a).mem = s.mem := rfl
@[simp] theorem State.jumpTo_fb (a : Word) : (s.jumpTo a).fb = s.fb := rfl
@[simp] theorem State.jumpTo_key (a : Word) : (s.jumpTo a).key = s.key := rfl
@[simp] theorem State.jumpTo_drawReady (a : Word) : (s.jumpTo a).drawReady = s.drawReady := rfl
@[simp] theorem State.jumpTo_awaitingInput (a : Word) : (s.jumpTo a).awaitingInput = s.awaitingInput := rfl
@[simp] theorem State.jumpTo_mode (a : Word) : (s.jumpTo a).mode = s.mode := rfl
@[simp] theorem State.jumpTo_faultKind (a : Word) : (s.jumpTo a).faultKind = s.faultKind := rfl
@[simp] theorem State.jumpTo_rndCount (a : Word) : (s.jumpTo a).rndCount = s.rndCount := rfl

@[simp] theorem State.advance_v : (s.advance).v = s.v := rfl
@[simp] theorem State.advance_i : (s.advance).i = s.i := rfl
@[simp] theorem State.advance_pc : (s.advance).pc = s.pc + 2 := rfl
@[simp] theorem State.advance_sp : (s.advance).sp = s.sp := rfl
@[simp] theorem State.advance_stack : (s.advance).stack = s.stack := rfl
@[simp] theorem State.advance_dt : (s.advance).dt = s.dt := rfl
@[simp] theorem State.advance_st : (s.advance).st = s.st := rfl
@[simp] theorem State.advance_mem : (s.advance).mem = s.mem := rfl
@[simp] theorem State.advance_fb : (s.advance).fb = s.fb := rfl
@[simp] theorem State.advance_key : (s.advance).key = s.key := rfl
@[simp] theorem State.advance_drawReady : (s.advance).drawReady = s.drawReady := rfl
@[simp] theorem State.advance_awaitingInput : (s.advance).awaitingInput = s.awaitingInput := rfl
@[simp] theorem State.advance_mode : (s.advance).mode = s.mode := rfl
@[simp] theorem State.advance_faultKind : (s.advance).faultKind = s.faultKind := rfl
@[simp] theorem State.advance_rndCount : (s.advance).rndCount = s.rndCount := rfl

@[simp] theorem State.writeDt_v (b : Byte) : (s.writeDt b).v = s.v := rfl
@[simp] theorem State.writeDt_i (b : Byte) : (s.writeDt b).i = s.i := rfl
@[simp] theorem State.writeDt_pc (b : Byte) : (s.writeDt b).pc = s.pc := rfl
@[simp] theorem State.writeDt_sp (b : Byte) : (s.writeDt b).sp = s.sp := rfl
@[simp] theorem State.writeDt_stack (b : Byte) : (s.writeDt b).stack = s.stack := rfl
@[simp] theorem State.writeDt_dt (b : Byte) : (s.writeDt b).dt = b := rfl
@[simp] theorem State.writeDt_st (b : Byte) : (s.writeDt b).st = s.st := rfl
@[simp] theorem State.writeDt_mem (b : Byte) : (s.writeDt b).mem = s.mem := rfl
@[simp] theorem State.writeDt_fb (b : Byte) : (s.writeDt b).fb = s.fb := rfl
@[simp] theorem State.writeDt_key (b : Byte) : (s.writeDt b).key = s.key := rfl
@[simp] theorem State.writeDt_drawReady (b : Byte) : (s.writeDt b).drawReady = s.drawReady := rfl
@[simp] theorem State.writeDt_awaitingInput (b : Byte) : (s.writeDt b).awaitingInput = s.awaitingInput := rfl
@[simp] theorem State.writeDt_mode (b : Byte) : (s.writeDt b).mode = s.mode := rfl
@[simp] theorem State.writeDt_faultKind (b : Byte) : (s.writeDt b).faultKind = s.faultKind := rfl
@[simp] theorem State.writeDt_rndCount (b : Byte) : (s.writeDt b).rndCount = s.rndCount := rfl

@[simp] theorem State.writeSt_v (b : Byte) : (s.writeSt b).v = s.v := rfl
@[simp] theorem State.writeSt_i (b : Byte) : (s.writeSt b).i = s.i := rfl
@[simp] theorem State.writeSt_pc (b : Byte) : (s.writeSt b).pc = s.pc := rfl
@[simp] theorem State.writeSt_sp (b : Byte) : (s.writeSt b).sp = s.sp := rfl
@[simp] theorem State.writeSt_stack (b : Byte) : (s.writeSt b).stack = s.stack := rfl
@[simp] theorem State.writeSt_dt (b : Byte) : (s.writeSt b).dt = s.dt := rfl
@[simp] theorem State.writeSt_st (b : Byte) : (s.writeSt b).st = b := rfl
@[simp] theorem State.writeSt_mem (b : Byte) : (s.writeSt b).mem = s.mem := rfl
@[simp] theorem State.writeSt_fb (b : Byte) : (s.writeSt b).fb = s.fb := rfl
@[simp] theorem State.writeSt_key (b : Byte) : (s.writeSt b).key = s.key := rfl
@[simp] theorem State.writeSt_drawReady (b : Byte) : (s.writeSt b).drawReady = s.drawReady := rfl
@[simp] theorem State.writeSt_awaitingInput (b : Byte) : (s.writeSt b).awaitingInput = s.awaitingInput := rfl
@[simp] theorem State.writeSt_mode (b : Byte) : (s.writeSt b).mode = s.mode := rfl
@[simp] theorem State.writeSt_faultKind (b : Byte) : (s.writeSt b).faultKind = s.faultKind := rfl
@[simp] theorem State.writeSt_rndCount (b : Byte) : (s.writeSt b).rndCount = s.rndCount := rfl

@[simp] theorem State.raiseFault_v (k : FaultKind) : (s.raiseFault k).v = s.v := rfl
@[simp] theorem State.raiseFault_i (k : FaultKind) : (s.raiseFault k).i = s.i := rfl
@[simp] theorem State.raiseFault_pc (k : FaultKind) : (s.raiseFault k).pc = s.pc := rfl
@[simp] theorem State.raiseFault_sp (k : FaultKind) : (s.raiseFault k).sp = s.sp := rfl
@[simp] theorem State.raiseFault_stack (k : FaultKind) : (s.raiseFault k).stack = s.stack := rfl
@[simp] theorem State.raiseFault_dt (k : FaultKind) : (s.raiseFault k).dt = s.dt := rfl
@[simp] theorem State.raiseFault_st (k : FaultKind) : (s.raiseFault k).st = s.st := rfl
@[simp] theorem State.raiseFault_mem (k : FaultKind) : (s.raiseFault k).mem = s.mem := rfl
@[simp] theorem State.raiseFault_fb (k : FaultKind) : (s.raiseFault k).fb = s.fb := rfl
@[simp] theorem State.raiseFault_key (k : FaultKind) : (s.raiseFault k).key = s.key := rfl
@[simp] theorem State.raiseFault_drawReady (k : FaultKind) : (s.raiseFault k).drawReady = s.drawReady := rfl
@[simp] theorem State.raiseFault_awaitingInput (k : FaultKind) : (s.raiseFault k).awaitingInput = s.awaitingInput := rfl
@[simp] theorem State.raiseFault_mode (k : FaultKind) : (s.raiseFault k).mode = .faulted := rfl
@[simp] theorem State.raiseFault_faultKind (k : FaultKind) : (s.raiseFault k).faultKind = k := rfl
@[simp] theorem State.raiseFault_rndCount (k : FaultKind) : (s.raiseFault k).rndCount = s.rndCount := rfl

@[simp] theorem State.setKey_v (k : KeyIdx) (d : Bool) : (s.setKey k d).v = s.v := rfl
@[simp] theorem State.setKey_i (k : KeyIdx) (d : Bool) : (s.setKey k d).i = s.i := rfl
@[simp] theorem State.setKey_pc (k : KeyIdx) (d : Bool) : (s.setKey k d).pc = s.pc := rfl
@[simp] theorem State.setKey_sp (k : KeyIdx) (d : Bool) : (s.setKey k d).sp = s.sp := rfl
@[simp] theorem State.setKey_stack (k : KeyIdx) (d : Bool) : (s.setKey k d).stack = s.stack := rfl
@[simp] theorem State.setKey_dt (k : KeyIdx) (d : Bool) : (s.setKey k d).dt = s.dt := rfl
@[simp] theorem State.setKey_st (k : KeyIdx) (d : Bool) : (s.setKey k d).st = s.st := rfl
@[simp] theorem State.setKey_mem (k : KeyIdx) (d : Bool) : (s.setKey k d).mem = s.mem := rfl
@[simp] theorem State.setKey_fb (k : KeyIdx) (d : Bool) : (s.setKey k d).fb = s.fb := rfl
@[simp] theorem State.setKey_key (k : KeyIdx) (d : Bool) : (s.setKey k d).key = s.key.set k d := rfl
@[simp] theorem State.setKey_drawReady (k : KeyIdx) (d : Bool) : (s.setKey k d).drawReady = s.drawReady := rfl
@[simp] theorem State.setKey_awaitingInput (k : KeyIdx) (d : Bool) : (s.setKey k d).awaitingInput = s.awaitingInput := rfl
@[simp] theorem State.setKey_mode (k : KeyIdx) (d : Bool) : (s.setKey k d).mode = s.mode := rfl
@[simp] theorem State.setKey_faultKind (k : KeyIdx) (d : Bool) : (s.setKey k d).faultKind = s.faultKind := rfl
@[simp] theorem State.setKey_rndCount (k : KeyIdx) (d : Bool) : (s.setKey k d).rndCount = s.rndCount := rfl

@[simp] theorem State.memWrite_v (a : Nat) (b : Byte) : (s.memWrite a b).v = s.v := rfl
@[simp] theorem State.memWrite_i (a : Nat) (b : Byte) : (s.memWrite a b).i = s.i := rfl
@[simp] theorem State.memWrite_pc (a : Nat) (b : Byte) : (s.memWrite a b).pc = s.pc := rfl
@[simp] theorem State.memWrite_sp (a : Nat) (b : Byte) : (s.memWrite a b).sp = s.sp := rfl
@[simp] theorem State.memWrite_stack (a : Nat) (b : Byte) : (s.memWrite a b).stack = s.stack := rfl
@[simp] theorem State.memWrite_dt (a : Nat) (b : Byte) : (s.memWrite a b).dt = s.dt := rfl
@[simp] theorem State.memWrite_st (a : Nat) (b : Byte) : (s.memWrite a b).st = s.st := rfl
@[simp] theorem State.memWrite_mem (a : Nat) (b : Byte) : (s.memWrite a b).mem = Memory.writeAt s.mem (wrapAddr a) b := rfl
@[simp] theorem State.memWrite_fb (a : Nat) (b : Byte) : (s.memWrite a b).fb = s.fb := rfl
@[simp] theorem State.memWrite_key (a : Nat) (b : Byte) : (s.memWrite a b).key = s.key := rfl
@[simp] theorem State.memWrite_drawReady (a : Nat) (b : Byte) : (s.memWrite a b).drawReady = s.drawReady := rfl
@[simp] theorem State.memWrite_awaitingInput (a : Nat) (b : Byte) : (s.memWrite a b).awaitingInput = s.awaitingInput := rfl
@[simp] theorem State.memWrite_mode (a : Nat) (b : Byte) : (s.memWrite a b).mode = s.mode := rfl
@[simp] theorem State.memWrite_faultKind (a : Nat) (b : Byte) : (s.memWrite a b).faultKind = s.faultKind := rfl
@[simp] theorem State.memWrite_rndCount (a : Nat) (b : Byte) : (s.memWrite a b).rndCount = s.rndCount := rfl

@[simp] theorem State.writeFb_v (f : FrameBuffer) : (s.writeFb f).v = s.v := rfl
@[simp] theorem State.writeFb_i (f : FrameBuffer) : (s.writeFb f).i = s.i := rfl
@[simp] theorem State.writeFb_pc (f : FrameBuffer) : (s.writeFb f).pc = s.pc := rfl
@[simp] theorem State.writeFb_sp (f : FrameBuffer) : (s.writeFb f).sp = s.sp := rfl
@[simp] theorem State.writeFb_stack (f : FrameBuffer) : (s.writeFb f).stack = s.stack := rfl
@[simp] theorem State.writeFb_dt (f : FrameBuffer) : (s.writeFb f).dt = s.dt := rfl
@[simp] theorem State.writeFb_st (f : FrameBuffer) : (s.writeFb f).st = s.st := rfl
@[simp] theorem State.writeFb_mem (f : FrameBuffer) : (s.writeFb f).mem = s.mem := rfl
@[simp] theorem State.writeFb_fb (f : FrameBuffer) : (s.writeFb f).fb = f := rfl
@[simp] theorem State.writeFb_key (f : FrameBuffer) : (s.writeFb f).key = s.key := rfl
@[simp] theorem State.writeFb_drawReady (f : FrameBuffer) : (s.writeFb f).drawReady = s.drawReady := rfl
@[simp] theorem State.writeFb_awaitingInput (f : FrameBuffer) : (s.writeFb f).awaitingInput = s.awaitingInput := rfl
@[simp] theorem State.writeFb_mode (f : FrameBuffer) : (s.writeFb f).mode = s.mode := rfl
@[simp] theorem State.writeFb_faultKind (f : FrameBuffer) : (s.writeFb f).faultKind = s.faultKind := rfl
@[simp] theorem State.writeFb_rndCount (f : FrameBuffer) : (s.writeFb f).rndCount = s.rndCount := rfl

@[simp] theorem State.signalDraw_v : (s.signalDraw).v = s.v := rfl
@[simp] theorem State.signalDraw_i : (s.signalDraw).i = s.i := rfl
@[simp] theorem State.signalDraw_pc : (s.signalDraw).pc = s.pc := rfl
@[simp] theorem State.signalDraw_sp : (s.signalDraw).sp = s.sp := rfl
@[simp] theorem State.signalDraw_stack : (s.signalDraw).stack = s.stack := rfl
@[simp] theorem State.signalDraw_dt : (s.signalDraw).dt = s.dt := rfl
@[simp] theorem State.signalDraw_st : (s.signalDraw).st = s.st := rfl
@[simp] theorem State.signalDraw_mem : (s.signalDraw).mem = s.mem := rfl
@[simp] theorem State.signalDraw_fb : (s.signalDraw).fb = s.fb := rfl
@[simp] theorem State.signalDraw_key : (s.signalDraw).key = s.key := rfl
@[simp] theorem State.signalDraw_drawReady : (s.signalDraw).drawReady = true := rfl
@[simp] theorem State.signalDraw_awaitingInput : (s.signalDraw).awaitingInput = s.awaitingInput := rfl
@[simp] theorem State.signalDraw_mode : (s.signalDraw).mode = s.mode := rfl
@[simp] theorem State.signalDraw_faultKind : (s.signalDraw).faultKind = s.faultKind := rfl
@[simp] theorem State.signalDraw_rndCount : (s.signalDraw).rndCount = s.rndCount := rfl

@[simp] theorem State.setWait_v (b : Bool) (m : Mode) : (s.setWait b m).v = s.v := rfl
@[simp] theorem State.setWait_i (b : Bool) (m : Mode) : (s.setWait b m).i = s.i := rfl
@[simp] theorem State.setWait_pc (b : Bool) (m : Mode) : (s.setWait b m).pc = s.pc := rfl
@[simp] theorem State.setWait_sp (b : Bool) (m : Mode) : (s.setWait b m).sp = s.sp := rfl
@[simp] theorem State.setWait_stack (b : Bool) (m : Mode) : (s.setWait b m).stack = s.stack := rfl
@[simp] theorem State.setWait_dt (b : Bool) (m : Mode) : (s.setWait b m).dt = s.dt := rfl
@[simp] theorem State.setWait_st (b : Bool) (m : Mode) : (s.setWait b m).st = s.st := rfl
@[simp] theorem State.setWait_mem (b : Bool) (m : Mode) : (s.setWait b m).mem = s.mem := rfl
@[simp] theorem State.setWait_fb (b : Bool) (m : Mode) : (s.setWait b m).fb = s.fb := rfl
@[simp] theorem State.setWait_key (b : Bool) (m : Mode) : (s.setWait b m).key = s.key := rfl
@[simp] theorem State.setWait_drawReady (b : Bool) (m : Mode) : (s.setWait b m).drawReady = s.drawReady := rfl
@[simp] theorem State.setWait_awaitingInput (b : Bool) (m : Mode) : (s.setWait b m).awaitingInput = b := rfl
@[simp] theorem State.setWait_mode (b : Bool) (m : Mode) : (s.setWait b m).mode = m := rfl
@[simp] theorem State.setWait_faultKind (b : Bool) (m : Mode) : (s.setWait b m).faultKind = s.faultKind := rfl
@[simp] theorem State.setWait_rndCount (b : Bool) (m : Mode) : (s.setWait b m).rndCount = s.rndCount := rfl

@[simp] theorem State.countDraw_v : (s.countDraw).v = s.v := rfl
@[simp] theorem State.countDraw_i : (s.countDraw).i = s.i := rfl
@[simp] theorem State.countDraw_pc : (s.countDraw).pc = s.pc := rfl
@[simp] theorem State.countDraw_sp : (s.countDraw).sp = s.sp := rfl
@[simp] theorem State.countDraw_stack : (s.countDraw).stack = s.stack := rfl
@[simp] theorem State.countDraw_dt : (s.countDraw).dt = s.dt := rfl
@[simp] theorem State.countDraw_st : (s.countDraw).st = s.st := rfl
@[simp] theorem State.countDraw_mem : (s.countDraw).mem = s.mem := rfl
@[simp] theorem State.countDraw_fb : (s.countDraw).fb = s.fb := rfl
@[simp] theorem State.countDraw_key : (s.countDraw).key = s.key := rfl
@[simp] theorem State.countDraw_drawReady : (s.countDraw).drawReady = s.drawReady := rfl
@[simp] theorem State.countDraw_awaitingInput : (s.countDraw).awaitingInput = s.awaitingInput := rfl
@[simp] theorem State.countDraw_mode : (s.countDraw).mode = s.mode := rfl
@[simp] theorem State.countDraw_faultKind : (s.countDraw).faultKind = s.faultKind := rfl
@[simp] theorem State.countDraw_rndCount : (s.countDraw).rndCount = s.rndCount + 1 := rfl

@[simp] theorem State.skipIf_v (c : Bool) : (s.skipIf c).v = s.v := by cases c <;> rfl
@[simp] theorem State.skipIf_i (c : Bool) : (s.skipIf c).i = s.i := by cases c <;> rfl
@[simp] theorem State.skipIf_pc (c : Bool) : (s.skipIf c).pc = if c then s.pc + 4 else s.pc + 2 := by
  cases c <;> rfl
@[simp] theorem State.skipIf_sp (c : Bool) : (s.skipIf c).sp = s.sp := by cases c <;> rfl
@[simp] theorem State.skipIf_stack (c : Bool) : (s.skipIf c).stack = s.stack := by cases c <;> rfl
@[simp] theorem State.skipIf_dt (c : Bool) : (s.skipIf c).dt = s.dt := by cases c <;> rfl
@[simp] theorem State.skipIf_st (c : Bool) : (s.skipIf c).st = s.st := by cases c <;> rfl
@[simp] theorem State.skipIf_mem (c : Bool) : (s.skipIf c).mem = s.mem := by cases c <;> rfl
@[simp] theorem State.skipIf_fb (c : Bool) : (s.skipIf c).fb = s.fb := by cases c <;> rfl
@[simp] theorem State.skipIf_key (c : Bool) : (s.skipIf c).key = s.key := by cases c <;> rfl
@[simp] theorem State.skipIf_drawReady (c : Bool) : (s.skipIf c).drawReady = s.drawReady := by cases c <;> rfl
@[simp] theorem State.skipIf_awaitingInput (c : Bool) : (s.skipIf c).awaitingInput = s.awaitingInput := by cases c <;> rfl
@[simp] theorem State.skipIf_mode (c : Bool) : (s.skipIf c).mode = s.mode := by cases c <;> rfl
@[simp] theorem State.skipIf_faultKind (c : Bool) : (s.skipIf c).faultKind = s.faultKind := by cases c <;> rfl
@[simp] theorem State.skipIf_rndCount (c : Bool) : (s.skipIf c).rndCount = s.rndCount := by cases c <;> rfl

@[simp] theorem State.nextPc_eq : s.nextPc = s.pc + 2 := rfl

/-! ### The registers -/

theorem State.readV_eq (x : RegIdx) : s.readV x = s.v[x] := rfl

@[simp] theorem State.readV_writeV (x r : RegIdx) (b : Byte) :
    (s.writeV x b).readV r = if r = x then b else s.readV r := by
  simp only [State.readV, State.writeV, Fin.getElem_fin, Vector.getElem_set, Fin.ext_iff, eq_comm]

@[simp] theorem State.readV_writeFlag (r : RegIdx) (b : Byte) :
    (s.writeFlag b).readV r = if r = flagReg then b else s.readV r := s.readV_writeV flagReg r b

@[simp] theorem State.readV_writeResultThenFlag (x r : RegIdx) (a b : Byte) :
    (s.writeResultThenFlag x a b).readV r = if r = flagReg then b else if r = x then a else s.readV r := by
  simp [State.writeResultThenFlag]

/-- Two states with the same registers read the same. -/
theorem State.readV_congr {s t : State} (h : t.v = s.v) (r : RegIdx) : t.readV r = s.readV r := by
  simp [State.readV, h]

/-- Two states with the same memory read the same. -/
theorem State.memRead_congr {s t : State} (h : t.mem = s.mem) (a : Nat) : t.memRead a = s.memRead a := by
  simp [State.memRead, h]

/-- Two states with the same memory and PC fetch the same word. -/
theorem State.fetchWord_congr {s t : State} (hm : t.mem = s.mem) (hp : t.pc = s.pc) : t.fetchWord = s.fetchWord := by
  simp [State.fetchWord, State.memRead_congr hm, hp]

@[simp] theorem State.readV_writeI (a : Word) (r : RegIdx) : (s.writeI a).readV r = s.readV r := rfl
@[simp] theorem State.readV_jumpTo (a : Word) (r : RegIdx) : (s.jumpTo a).readV r = s.readV r := rfl
@[simp] theorem State.readV_advance (r : RegIdx) : (s.advance).readV r = s.readV r := rfl
@[simp] theorem State.readV_writeDt (b : Byte) (r : RegIdx) : (s.writeDt b).readV r = s.readV r := rfl
@[simp] theorem State.readV_writeSt (b : Byte) (r : RegIdx) : (s.writeSt b).readV r = s.readV r := rfl
@[simp] theorem State.readV_raiseFault (k : FaultKind) (r : RegIdx) : (s.raiseFault k).readV r = s.readV r := rfl
@[simp] theorem State.readV_setKey (k : KeyIdx) (d : Bool) (r : RegIdx) : (s.setKey k d).readV r = s.readV r := rfl
@[simp] theorem State.readV_memWrite (a : Nat) (b : Byte) (r : RegIdx) : (s.memWrite a b).readV r = s.readV r := rfl
@[simp] theorem State.readV_writeFb (f : FrameBuffer) (r : RegIdx) : (s.writeFb f).readV r = s.readV r := rfl
@[simp] theorem State.readV_signalDraw (r : RegIdx) : (s.signalDraw).readV r = s.readV r := rfl
@[simp] theorem State.readV_setWait (b : Bool) (m : Mode) (r : RegIdx) : (s.setWait b m).readV r = s.readV r := rfl
@[simp] theorem State.readV_countDraw (r : RegIdx) : (s.countDraw).readV r = s.readV r := rfl
@[simp] theorem State.readV_skipIf (c : Bool) (r : RegIdx) : (s.skipIf c).readV r = s.readV r := by cases c <;> rfl

@[simp] theorem State.memRead_writeV (x : RegIdx) (b : Byte) (a : Nat) : (s.writeV x b).memRead a = s.memRead a := rfl
@[simp] theorem State.memRead_writeFlag (b : Byte) (a : Nat) : (s.writeFlag b).memRead a = s.memRead a := rfl
@[simp] theorem State.memRead_writeResultThenFlag (x : RegIdx) (e f : Byte) (a : Nat) : (s.writeResultThenFlag x e f).memRead a = s.memRead a := rfl
@[simp] theorem State.memRead_writeI (d : Word) (a : Nat) : (s.writeI d).memRead a = s.memRead a := rfl
@[simp] theorem State.memRead_jumpTo (d : Word) (a : Nat) : (s.jumpTo d).memRead a = s.memRead a := rfl
@[simp] theorem State.memRead_advance (a : Nat) : (s.advance).memRead a = s.memRead a := rfl
@[simp] theorem State.memRead_writeDt (b : Byte) (a : Nat) : (s.writeDt b).memRead a = s.memRead a := rfl
@[simp] theorem State.memRead_writeSt (b : Byte) (a : Nat) : (s.writeSt b).memRead a = s.memRead a := rfl
@[simp] theorem State.memRead_raiseFault (k : FaultKind) (a : Nat) : (s.raiseFault k).memRead a = s.memRead a := rfl
@[simp] theorem State.memRead_setKey (k : KeyIdx) (d : Bool) (a : Nat) : (s.setKey k d).memRead a = s.memRead a := rfl
@[simp] theorem State.memRead_writeFb (f : FrameBuffer) (a : Nat) : (s.writeFb f).memRead a = s.memRead a := rfl
@[simp] theorem State.memRead_signalDraw (a : Nat) : (s.signalDraw).memRead a = s.memRead a := rfl
@[simp] theorem State.memRead_setWait (b : Bool) (m : Mode) (a : Nat) : (s.setWait b m).memRead a = s.memRead a := rfl
@[simp] theorem State.memRead_countDraw (a : Nat) : (s.countDraw).memRead a = s.memRead a := rfl
@[simp] theorem State.memRead_skipIf (c : Bool) (a : Nat) : (s.skipIf c).memRead a = s.memRead a := by cases c <;> rfl

/-! ### The return stack: everything push and pop can do -/

/-- A push answers exactly when SP < 16: the address at SP, SP one more, nothing else. -/
theorem State.push_eq_some {s t : State} {a : Word} :
    s.push a = some t ↔ ∃ h : s.sp.val < 16,
      t = { s with stack := s.stack.set s.sp.val a, sp := ⟨s.sp.val + 1, by omega⟩ } := by
  unfold State.push
  split <;> simp_all [eq_comm]

/-- A push is refused exactly when SP = 16. -/
theorem State.push_eq_none {s : State} {a : Word} : s.push a = none ↔ s.sp.val = 16 := by
  unfold State.push
  have := s.sp.isLt
  split <;> simp <;> omega

/-- A pop answers exactly when SP > 0: the entry below SP, SP one less, nothing else. -/
theorem State.pop_eq_some {s t : State} {a : Word} :
    s.pop = some (a, t) ↔ ∃ h : 0 < s.sp.val,
      a = s.stack[s.sp.val - 1]'(by omega) ∧ t = { s with sp := ⟨s.sp.val - 1, by omega⟩ } := by
  unfold State.pop
  split <;> simp_all [eq_comm]

/-- A pop is refused exactly when SP = 0. -/
theorem State.pop_eq_none {s : State} : s.pop = none ↔ s.sp.val = 0 := by
  unfold State.pop
  split <;> simp <;> omega

end Sys2Proof.Machine
end

