-- ==== Sys2Proof/Laws/Memory.lean ====
section
/-! SUPPORT. The laws of memory: a read after a write, the canonical form kept by every operation, and what a run of
bytes written at ascending addresses reads as. -/

namespace Sys2Proof.Machine

namespace Memory

/-! ### Read after write, on the list -/

theorem readAt_erase (m : Memory) (a b : Nat) :
    readAt (erase m a) b = if b = a then unlisted a else readAt m b := by
  induction m with
  | nil => by_cases h : b = a <;> simp [erase, readAt, h]
  | cons c rest ih =>
    obtain ⟨k, v⟩ := c
    unfold erase at ih ⊢
    by_cases hk : k = a
    · subst hk
      by_cases hb : b = k
      · simpa [hb] using ih
      · have : k ≠ b := fun h => hb h.symm
        simpa [hb, readAt, this] using ih
    · by_cases hb : b = a
      · subst hb
        simpa [hk, readAt] using ih
      · simp only [hb, if_false] at ih
        simp [hk, hb, readAt, ih]

theorem readAt_insertCell (m : Memory) (a b : Nat) (v : Byte) (h : ∀ c ∈ m, c.1 ≠ a) :
    readAt (insertCell (a, v) m) b = if b = a then v else readAt m b := by
  induction m with
  | nil =>
    by_cases hb : b = a
    · simp [insertCell, readAt, hb]
    · simp [insertCell, readAt, hb, Ne.symm hb]
  | cons c rest ih =>
    obtain ⟨k, u⟩ := c
    have hk : k ≠ a := h (k, u) (by simp)
    have hrest := ih (fun c hc => h c (by simp [hc]))
    unfold insertCell
    split
    · by_cases hb : b = a
      · simp [readAt, hb]
      · have : a ≠ b := fun e => hb e.symm
        simp [readAt, hb, this]
    · by_cases hb : b = a
      · subst hb; simp [readAt, hk, hrest]
      · simp [readAt, hrest, hb]

theorem ne_of_mem_erase {m : Memory} {a : Nat} {c : Host.Cell} (h : c ∈ erase m a) : c.1 ≠ a := by
  simp only [erase, List.mem_filter, bne_iff_ne] at h
  exact h.2

/-- A byte read after a write: the written byte at its address, the old byte elsewhere. -/
theorem readAt_writeAt (m : Memory) (a b : Nat) (v : Byte) :
    readAt (writeAt m a v) b = if b = a then v else readAt m b := by
  unfold writeAt
  split
  · rename_i h; rw [readAt_erase, h]
  · rw [readAt_insertCell _ _ _ _ (fun c hc => ne_of_mem_erase hc), readAt_erase]
    by_cases hb : b = a <;> simp [hb]

/-- Bytes written at ascending addresses read back in place; every other address is as before. -/
theorem readAt_writeBytes (m : Memory) (a b : Nat) (bytes : List Byte) :
    readAt (writeBytes m a bytes) b =
      if h : a ≤ b ∧ b < a + bytes.length then bytes[b - a]'(by omega) else readAt m b := by
  induction bytes generalizing m a with
  | nil => simp [writeBytes]
  | cons v rest ih =>
    rw [writeBytes, ih, readAt_writeAt]
    by_cases hb : b = a
    · subst hb; simp
    · by_cases hin : a ≤ b ∧ b < a + (v :: rest).length
      · have hin' : a + 1 ≤ b ∧ b < a + 1 + rest.length := by simp at hin; omega
        have e : b - a = (b - (a + 1)) + 1 := by omega
        rw [dif_pos hin, dif_pos hin']
        simp [e]
      · have hin' : ¬ (a + 1 ≤ b ∧ b < a + 1 + rest.length) := by simp at hin; omega
        rw [dif_neg hin, dif_neg hin', if_neg hb]

/-! ### The canonical form -/

theorem wf_nil : wf [] := by simp [wf]

theorem wf_erase {m : Memory} (h : wf m) (a : Nat) : wf (erase m a) :=
  ⟨h.1.filter _, fun c hc => h.2 c (List.mem_filter.1 hc).1⟩

theorem mem_insertCell {m : Memory} {c d : Host.Cell} : d ∈ insertCell c m ↔ d = c ∨ d ∈ m := by
  induction m with
  | nil => simp [insertCell]
  | cons e rest ih =>
    unfold insertCell
    split
    · simp
    · simp [ih]; tauto

theorem pairwise_insertCell {m : Memory} {c : Host.Cell} (h : List.Pairwise (fun c d => c.1 < d.1) m)
    (hc : ∀ d ∈ m, d.1 ≠ c.1) : List.Pairwise (fun c d => c.1 < d.1) (insertCell c m) := by
  induction m with
  | nil => simp [insertCell]
  | cons e rest ih =>
    rw [List.pairwise_cons] at h
    unfold insertCell
    split
    · rename_i hlt
      refine List.pairwise_cons.2 ⟨fun d hd => ?_, List.pairwise_cons.2 h⟩
      rcases List.mem_cons.1 hd with rfl | hd
      · exact hlt
      · exact Nat.lt_trans hlt (h.1 d hd)
    · rename_i hge
      refine List.pairwise_cons.2 ⟨fun d hd => ?_, ih h.2 (fun d hd => hc d (by simp [hd]))⟩
      rcases mem_insertCell.1 hd with rfl | hd
      · have := hc e (by simp); omega
      · exact h.1 d hd

/-- A write to an address of the 4096 bytes keeps the canonical form. -/
theorem wf_writeAt {m : Memory} (h : wf m) {a : Nat} (ha : a < Config.memSize) (v : Byte) : wf (writeAt m a v) := by
  unfold writeAt
  split
  · exact wf_erase h a
  · rename_i hv
    refine ⟨pairwise_insertCell (wf_erase h a).1 (fun d hd => ne_of_mem_erase hd), fun d hd => ?_⟩
    rcases mem_insertCell.1 hd with rfl | hd
    · exact ⟨ha, hv⟩
    · exact (wf_erase h a).2 d hd

/-- A run of writes inside the 4096 bytes keeps the canonical form. -/
theorem wf_writeBytes {m : Memory} (h : wf m) (a : Nat) (bytes : List Byte)
    (ha : a + bytes.length ≤ Config.memSize) : wf (writeBytes m a bytes) := by
  induction bytes generalizing m a with
  | nil => exact h
  | cons v rest ih =>
    simp only [List.length_cons] at ha
    exact ih (wf_writeAt h (by omega) v) (a + 1) (by omega)

end Memory

/-! ### The access primitives -/

/-- Memory after reset is canonical. -/
theorem State.wf_reset : Memory.wf State.reset.mem := Memory.wf_nil

theorem wrapAddr_lt (a : Nat) : wrapAddr a < Config.memSize := Nat.mod_lt a (by decide)

/-- An access uses its address mod 4096 only (R54). -/
theorem State.memRead_wrap (s : State) (a : Nat) : s.memRead (wrapAddr a) = s.memRead a := by
  simp [State.memRead, wrapAddr]

theorem State.memRead_of_wrap_eq (s : State) {a b : Nat} (h : wrapAddr a = wrapAddr b) : s.memRead a = s.memRead b := by
  simp [State.memRead, h]

/-- A read after a write: the written byte at every address that wraps to the same place, the old byte elsewhere
(R52, R53). -/
theorem State.memRead_memWrite (s : State) (a b : Nat) (v : Byte) :
    (s.memWrite a v).memRead b = if wrapAddr b = wrapAddr a then v else s.memRead b := by
  simp [State.memRead, State.memWrite, Memory.readAt_writeAt]

/-- A store keeps the canonical form. -/
theorem State.wf_memWrite {s : State} (h : Memory.wf s.mem) (a : Nat) (v : Byte) : Memory.wf (s.memWrite a v).mem :=
  Memory.wf_writeAt h (wrapAddr_lt a) v

end Sys2Proof.Machine
end

