-- ==== Sys2Proof/Laws/Block.lean ====
section
/-! SUPPORT. Everything the multi-byte operations can do: the block store, the block load and the digit store
(`45_keyed_single_reg.md` R168 to R170). -/

namespace Sys2Proof.Machine

theorem mem_regsUpTo {x r : RegIdx} : r ∈ regsUpTo x ↔ r ≤ x := by simp [regsUpTo]

/-- Different small offsets reach different bytes, wherever the base lies. -/
theorem wrapAddr_add_inj {i j k : Nat} (hj : j < 16) (hk : k < 16) :
    wrapAddr (i + j) = wrapAddr (i + k) ↔ j = k := by
  simp only [wrapAddr, Config.memSize]; omega

/-! ### The block store -/

/-- The fold of `storeRegs` over a list of registers, from any state. -/
def storeList (base : State) (l : List RegIdx) (t : State) : State :=
  l.foldl (fun t r => t.memWrite (indexed base r.val) (base.readV r)) t

theorem storeRegs_eq (x : RegIdx) (s : State) : storeRegs x s = storeList s (regsUpTo x) s := rfl

theorem storeList_rest (base : State) (l : List RegIdx) (t : State) :
    storeList base l t = { t with mem := (storeList base l t).mem } := by
  induction l generalizing t with
  | nil => rfl
  | cons r rest ih =>
    have h := ih (t.memWrite (indexed base r.val) (base.readV r))
    exact h

theorem storeList_other (base : State) (l : List RegIdx) (t : State) (b : Nat)
    (h : ∀ r ∈ l, wrapAddr b ≠ wrapAddr (indexed base r.val)) : (storeList base l t).memRead b = t.memRead b := by
  induction l generalizing t with
  | nil => rfl
  | cons q rest ih =>
    rw [storeList, List.foldl_cons]
    refine (ih _ (fun r hr => h r (by simp [hr]))).trans ?_
    rw [State.memRead_memWrite, if_neg (h q (by simp))]

theorem storeList_same (base : State) (l : List RegIdx) (t : State) (r : RegIdx) (hr : r ∈ l) :
    (storeList base l t).memRead (indexed base r.val) = base.readV r := by
  induction l generalizing t with
  | nil => simp at hr
  | cons q rest ih =>
    rw [storeList, List.foldl_cons]
    by_cases hin : r ∈ rest
    · exact ih _ hin
    · obtain rfl : r = q := by simpa [hin] using hr
      refine (storeList_other base rest _ _ (fun p hp e => ?_)).trans ?_
      · exact hin ((Fin.ext ((wrapAddr_add_inj r.isLt p.isLt).1 e)) ▸ hp)
      · rw [State.memRead_memWrite, if_pos rfl]

theorem wf_storeList (base : State) (l : List RegIdx) {t : State} (h : Memory.wf t.mem) :
    Memory.wf (storeList base l t).mem := by
  induction l generalizing t with
  | nil => exact h
  | cons r rest ih => exact ih (State.wf_memWrite h _ _)

/-- The block store changes memory only. -/
theorem storeRegs_rest (x : RegIdx) (s : State) : storeRegs x s = { s with mem := (storeRegs x s).mem } :=
  storeList_rest s _ s

/-- Registers 0..=x are stored at I, I + 1, .. -/
theorem storeRegs_same {x r : RegIdx} (h : r ≤ x) (s : State) :
    (storeRegs x s).memRead (s.i.toNat + r.val) = s.readV r :=
  storeList_same s _ s r (mem_regsUpTo.2 h)

/-- Every byte outside I .. I + x is as before. -/
theorem storeRegs_other (x : RegIdx) (s : State) (b : Nat)
    (h : ∀ r ≤ x, wrapAddr b ≠ wrapAddr (s.i.toNat + r.val)) : (storeRegs x s).memRead b = s.memRead b :=
  storeList_other s _ s b (fun r hr => h r (mem_regsUpTo.1 hr))

theorem wf_storeRegs (x : RegIdx) {s : State} (h : Memory.wf s.mem) : Memory.wf (storeRegs x s).mem :=
  wf_storeList s _ h

/-! ### The block load -/

/-- The fold of `loadRegs` over a list of registers, from any state. -/
def loadList (base : State) (l : List RegIdx) (t : State) : State :=
  l.foldl (fun t r => t.writeV r (base.memRead (indexed base r.val))) t

theorem loadRegs_eq (x : RegIdx) (s : State) : loadRegs x s = loadList s (regsUpTo x) s := rfl

theorem loadList_rest (base : State) (l : List RegIdx) (t : State) :
    loadList base l t = { t with v := (loadList base l t).v } := by
  induction l generalizing t with
  | nil => rfl
  | cons r rest ih => exact ih (t.writeV r (base.memRead (indexed base r.val)))

theorem readV_loadList (base : State) (l : List RegIdx) (t : State) (r : RegIdx) :
    (loadList base l t).readV r = if r ∈ l then base.memRead (indexed base r.val) else t.readV r := by
  induction l generalizing t with
  | nil => rfl
  | cons q rest ih =>
    rw [loadList, List.foldl_cons]
    refine (ih _).trans ?_
    by_cases hin : r ∈ rest
    · simp [hin]
    · by_cases hq : r = q <;> simp [hin, hq]

/-- The block load changes the general registers only. -/
theorem loadRegs_rest (x : RegIdx) (s : State) : loadRegs x s = { s with v := (loadRegs x s).v } :=
  loadList_rest s _ s

/-- Registers 0..=x are loaded from I, I + 1, ..; the others are as before. -/
theorem readV_loadRegs (x r : RegIdx) (s : State) :
    (loadRegs x s).readV r = if r ≤ x then s.memRead (s.i.toNat + r.val) else s.readV r := by
  rw [loadRegs_eq, readV_loadList]; simp [mem_regsUpTo, indexed]

/-! ### The digit store -/

/-- The digit store changes memory only. -/
theorem storeDigits_rest (b : Byte) (s : State) : storeDigits b s = { s with mem := (storeDigits b s).mem } := rfl

/-- What each byte reads as after the digit store. -/
theorem memRead_storeDigits (b : Byte) (s : State) (a : Nat) :
    (storeDigits b s).memRead a =
      if wrapAddr a = wrapAddr (s.i.toNat + 2) then ones b
      else if wrapAddr a = wrapAddr (s.i.toNat + 1) then tens b
      else if wrapAddr a = wrapAddr s.i.toNat then hundreds b
      else s.memRead a := by
  simp only [storeDigits, State.memRead_memWrite, indexed, Nat.add_zero]

theorem wf_storeDigits (b : Byte) {s : State} (h : Memory.wf s.mem) : Memory.wf (storeDigits b s).mem :=
  State.wf_memWrite (State.wf_memWrite (State.wf_memWrite h _ _) _ _) _ _

end Sys2Proof.Machine
end

