-- ==== Sys2Proof/Laws/Decode.lean ====
section
/-! SUPPORT. The fields of a word built by a format, and the two conversions between nibbles and numbers. -/

namespace Sys2Proof

@[simp] theorem idxOfNibble_nibbleOfIdx (x : Fin 16) : idxOfNibble (nibbleOfIdx x) = x := by
  apply Fin.ext
  simp only [idxOfNibble, nibbleOfIdx, BitVec.toNat_ofNat]
  omega

@[simp] theorem nibbleOfIdx_idxOfNibble (n : Nibble) : nibbleOfIdx (idxOfNibble n) = n := by
  simp [idxOfNibble, nibbleOfIdx]

/-! ### Each field as a number -/

theorem nibble1_toNat (w : Word) : (nibble1 w).toNat = w.toNat / 4096 := by
  simp only [nibble1, BitVec.extractLsb'_toNat, Nat.shiftRight_eq_div_pow]; omega

theorem nibble2_toNat (w : Word) : (nibble2 w).toNat = w.toNat / 256 % 16 := by
  simp only [nibble2, BitVec.extractLsb'_toNat, Nat.shiftRight_eq_div_pow]

theorem nibble3_toNat (w : Word) : (nibble3 w).toNat = w.toNat / 16 % 16 := by
  simp only [nibble3, BitVec.extractLsb'_toNat, Nat.shiftRight_eq_div_pow]

theorem nibble4_toNat (w : Word) : (nibble4 w).toNat = w.toNat % 16 := by
  simp only [nibble4, BitVec.extractLsb'_toNat, Nat.shiftRight_eq_div_pow]; omega

theorem byteKk_toNat (w : Word) : (byteKk w).toNat = w.toNat % 256 := by
  simp only [byteKk, BitVec.extractLsb'_toNat, Nat.shiftRight_eq_div_pow]; omega

theorem addrNnn_toNat (w : Word) : (addrNnn w).toNat = w.toNat % 4096 := by
  simp only [addrNnn, BitVec.extractLsb'_toNat, Nat.shiftRight_eq_div_pow]; omega

/-! ### Each format as a number -/

theorem formatA_toNat (n1 : Nibble) (nnn : Addr) : (formatA n1 nnn).toNat = n1.toNat * 4096 + nnn.toNat := by
  have := nnn.isLt
  simp only [formatA, BitVec.toNat_append]
  rw [← Nat.shiftLeft_add_eq_or_of_lt (by omega), Nat.shiftLeft_eq]

theorem formatI_toNat (n1 n2 : Nibble) (kk : Byte) :
    (formatI n1 n2 kk).toNat = n1.toNat * 4096 + n2.toNat * 256 + kk.toNat := by
  have h2 := n2.isLt
  have hk := kk.isLt
  simp only [formatI, BitVec.toNat_append]
  rw [← Nat.shiftLeft_add_eq_or_of_lt (by omega), ← Nat.shiftLeft_add_eq_or_of_lt (by omega)]
  simp only [Nat.shiftLeft_eq]; omega

theorem formatR_toNat (n1 n2 n3 n4 : Nibble) :
    (formatR n1 n2 n3 n4).toNat = n1.toNat * 4096 + n2.toNat * 256 + n3.toNat * 16 + n4.toNat := by
  have h2 := n2.isLt
  have h3 := n3.isLt
  have h4 := n4.isLt
  simp only [formatR, BitVec.toNat_append]
  rw [← Nat.shiftLeft_add_eq_or_of_lt (by omega), ← Nat.shiftLeft_add_eq_or_of_lt (by omega),
    ← Nat.shiftLeft_add_eq_or_of_lt (by omega)]
  simp only [Nat.shiftLeft_eq]; omega

/-! ### The fields of a format -/

@[simp] theorem nibble1_formatA (n1 : Nibble) (nnn : Addr) : nibble1 (formatA n1 nnn) = n1 := by
  apply BitVec.eq_of_toNat_eq; have := nnn.isLt; rw [nibble1_toNat, formatA_toNat]; omega

@[simp] theorem addrNnn_formatA (n1 : Nibble) (nnn : Addr) : addrNnn (formatA n1 nnn) = nnn := by
  apply BitVec.eq_of_toNat_eq; have := nnn.isLt; rw [addrNnn_toNat, formatA_toNat]; omega

@[simp] theorem nibble1_formatI (n1 n2 : Nibble) (kk : Byte) : nibble1 (formatI n1 n2 kk) = n1 := by
  apply BitVec.eq_of_toNat_eq; have := n2.isLt; have := kk.isLt; rw [nibble1_toNat, formatI_toNat]; omega

@[simp] theorem nibble2_formatI (n1 n2 : Nibble) (kk : Byte) : nibble2 (formatI n1 n2 kk) = n2 := by
  apply BitVec.eq_of_toNat_eq; have := n2.isLt; have := kk.isLt; rw [nibble2_toNat, formatI_toNat]; omega

@[simp] theorem byteKk_formatI (n1 n2 : Nibble) (kk : Byte) : byteKk (formatI n1 n2 kk) = kk := by
  apply BitVec.eq_of_toNat_eq; have := n2.isLt; have := kk.isLt; rw [byteKk_toNat, formatI_toNat]; omega

@[simp] theorem nibble3_formatI (n1 n2 : Nibble) (kk : Byte) : nibble3 (formatI n1 n2 kk) = kk.extractLsb' 4 4 := by
  apply BitVec.eq_of_toNat_eq
  have := kk.isLt
  rw [nibble3_toNat, formatI_toNat, BitVec.extractLsb'_toNat, Nat.shiftRight_eq_div_pow]; omega

@[simp] theorem nibble4_formatI (n1 n2 : Nibble) (kk : Byte) : nibble4 (formatI n1 n2 kk) = kk.extractLsb' 0 4 := by
  apply BitVec.eq_of_toNat_eq
  rw [nibble4_toNat, formatI_toNat, BitVec.extractLsb'_toNat, Nat.shiftRight_eq_div_pow]; omega

@[simp] theorem nibble1_formatR (n1 n2 n3 n4 : Nibble) : nibble1 (formatR n1 n2 n3 n4) = n1 := by
  apply BitVec.eq_of_toNat_eq; have := n2.isLt; have := n3.isLt; have := n4.isLt
  rw [nibble1_toNat, formatR_toNat]; omega

@[simp] theorem nibble2_formatR (n1 n2 n3 n4 : Nibble) : nibble2 (formatR n1 n2 n3 n4) = n2 := by
  apply BitVec.eq_of_toNat_eq; have := n2.isLt; have := n3.isLt; have := n4.isLt
  rw [nibble2_toNat, formatR_toNat]; omega

@[simp] theorem nibble3_formatR (n1 n2 n3 n4 : Nibble) : nibble3 (formatR n1 n2 n3 n4) = n3 := by
  apply BitVec.eq_of_toNat_eq; have := n2.isLt; have := n3.isLt; have := n4.isLt
  rw [nibble3_toNat, formatR_toNat]; omega

@[simp] theorem nibble4_formatR (n1 n2 n3 n4 : Nibble) : nibble4 (formatR n1 n2 n3 n4) = n4 := by
  apply BitVec.eq_of_toNat_eq; have := n2.isLt; have := n3.isLt; have := n4.isLt
  rw [nibble4_toNat, formatR_toNat]; omega

/-! ### A word is the format of its fields -/

theorem formatR_nibbles (w : Word) : formatR (nibble1 w) (nibble2 w) (nibble3 w) (nibble4 w) = w := by
  apply BitVec.eq_of_toNat_eq
  have := w.isLt
  rw [formatR_toNat, nibble1_toNat, nibble2_toNat, nibble3_toNat, nibble4_toNat]; omega

theorem formatI_fields (w : Word) : formatI (nibble1 w) (nibble2 w) (byteKk w) = w := by
  apply BitVec.eq_of_toNat_eq
  have := w.isLt
  rw [formatI_toNat, nibble1_toNat, nibble2_toNat, byteKk_toNat]; omega

theorem formatA_fields (w : Word) : formatA (nibble1 w) (addrNnn w) = w := by
  apply BitVec.eq_of_toNat_eq
  have := w.isLt
  rw [formatA_toNat, nibble1_toNat, addrNnn_toNat]; omega

theorem byteKk_eq_append (w : Word) : byteKk w = nibble3 w ++ nibble4 w := by
  apply BitVec.eq_of_toNat_eq
  rw [BitVec.toNat_append, byteKk_toNat, nibble3_toNat, nibble4_toNat,
    ← Nat.shiftLeft_add_eq_or_of_lt (by omega), Nat.shiftLeft_eq]
  omega

/-- The last arm of the first level is n1 = F. -/
theorem nibble_eq_fifteen {x : Nibble} (h0 : ¬ x = 0#4) (h1 : ¬ x = 1#4) (h2 : ¬ x = 2#4) (h3 : ¬ x = 3#4)
    (h4 : ¬ x = 4#4) (h5 : ¬ x = 5#4) (h6 : ¬ x = 6#4) (h7 : ¬ x = 7#4) (h8 : ¬ x = 8#4) (h9 : ¬ x = 9#4)
    (h10 : ¬ x = 10#4) (h11 : ¬ x = 11#4) (h12 : ¬ x = 12#4) (h13 : ¬ x = 13#4) (h14 : ¬ x = 14#4) : x = 15#4 := by
  have := x.isLt
  apply BitVec.eq_of_toNat_eq
  simp only [← BitVec.toNat_inj, BitVec.toNat_ofNat] at *
  omega

/-! ### Masks -/

/-- Masking a format masks its fields. -/
theorem formatI_and (a b p q : Nibble) (c r : Byte) :
    formatI a b c &&& formatI p q r = formatI (a &&& p) (b &&& q) (c &&& r) := by
  apply BitVec.eq_of_getLsbD_eq
  intro i hi
  simp only [formatI, BitVec.getLsbD_and, BitVec.getLsbD_append]
  split <;> [rfl; split] <;> rfl

/-- Masking a format masks its fields. -/
theorem formatA_and (a p : Nibble) (c r : Addr) :
    formatA a c &&& formatA p r = formatA (a &&& p) (c &&& r) := by
  apply BitVec.eq_of_getLsbD_eq
  intro i hi
  simp only [formatA, BitVec.getLsbD_and, BitVec.getLsbD_append]
  split <;> rfl

/-- Masking a format masks its fields. -/
theorem formatR_and (a b c d p q r s : Nibble) :
    formatR a b c d &&& formatR p q r s = formatR (a &&& p) (b &&& q) (c &&& r) (d &&& s) := by
  apply BitVec.eq_of_getLsbD_eq
  intro i hi
  simp only [formatR, BitVec.getLsbD_and, BitVec.getLsbD_append]
  split <;> [rfl; split <;> [rfl; split]] <;> rfl

/-! ### Bytes and words -/

/-- The two bytes of a word give the word back (R55). -/
theorem wordOfBytes_split (w : Word) : wordOfBytes (firstByte w) (secondByte w) = w := by
  apply BitVec.eq_of_toNat_eq
  have := w.isLt
  simp only [wordOfBytes, firstByte, secondByte, BitVec.toNat_append, BitVec.extractLsb'_toNat,
    Nat.shiftRight_eq_div_pow]
  rw [← Nat.shiftLeft_add_eq_or_of_lt (by omega), Nat.shiftLeft_eq]; omega

theorem wordOfBytes_toNat (a b : Byte) : (wordOfBytes a b).toNat = 256 * a.toNat + b.toNat := by
  have := b.isLt
  simp only [wordOfBytes, BitVec.toNat_append]
  rw [← Nat.shiftLeft_add_eq_or_of_lt (by omega), Nat.shiftLeft_eq]; omega

end Sys2Proof
end

