-- ==== Sys2Proof/Laws/Draw.lean ====
section
/-! SUPPORT. Everything the sprite writer can do: which pixels a partly drawn row, a row, and a whole sprite have
changed, and when a collision has been seen (`44_draw.md` R150 to R152). -/

namespace Sys2Proof.Machine

/-! ### Distances with wrap -/

/-- How far right of `vx` column `x` lies, with wrap at 64. -/
def colDist (vx x : Nat) : Nat := (x + 64 - vx % 64) % 64

/-- How far below `vy` row `y` lies, with wrap at 32. -/
def rowDist (vy y : Nat) : Nat := (y + 32 - vy % 32) % 32

theorem colDist_lt (vx x : Nat) : colDist vx x < 64 := Nat.mod_lt _ (by decide)

theorem rowDist_lt (vy y : Nat) : rowDist vy y < 32 := Nat.mod_lt _ (by decide)

theorem colDist_eq_iff {vx x k : Nat} (hx : x < 64) (hk : k < 64) : colDist vx x = k ↔ x = (vx + k) % 64 := by
  unfold colDist; omega

theorem rowDist_eq_iff {vy y k : Nat} (hy : y < 32) (hk : k < 32) : rowDist vy y = k ↔ y = (vy + k) % 32 := by
  unfold rowDist; omega

/-! ### One pixel -/

theorem FrameBuffer.pixel_xorPixel (fb : FrameBuffer) (a b x y : Nat) (src : Bool) :
    pixel (xorPixel fb a b src) x y = (pixel fb x y ^^ (src && (x % 64 == a % 64) && (y % 32 == b % 32))) := by
  cases src
  · simp [xorPixel]
  · by_cases hy : y % 32 = b % 32
    · have hx : x % 64 < 64 := Nat.mod_lt _ (by decide)
      simp only [xorPixel, pixel, if_true, hy, Vector.getElem_set_self, BitVec.getLsbD_xor, BitVec.getLsbD_twoPow]
      by_cases h : x % 64 = a % 64
      · simp [h, Nat.mod_lt]
      · simp [beq_eq_false_iff_ne.2 h, Ne.symm h]
    · simp [xorPixel, pixel, beq_eq_false_iff_ne.2 hy, Ne.symm hy]

/-! ### One row -/

/-- The first `k` columns of a row, as the fold of `drawRow` reaches them. -/
def drawCols (vx py : Nat) (b : Byte) (k : Nat) (d : FrameBuffer × Bool) : FrameBuffer × Bool :=
  (List.range k).foldl (fun e col => drawPixel ((vx + col) % 64) py (spriteBit b col) e) d

theorem drawRow_eq (vx py : Nat) (b : Byte) (d : FrameBuffer × Bool) : drawRow vx py b d = drawCols vx py b 8 d := rfl

theorem drawCols_succ (vx py : Nat) (b : Byte) (k : Nat) (d : FrameBuffer × Bool) :
    drawCols vx py b (k + 1) d = drawPixel ((vx + k) % 64) py (spriteBit b k) (drawCols vx py b k d) := by
  simp [drawCols, List.range_succ]

theorem pixel_drawCols (vx py : Nat) (b : Byte) (k : Nat) (hk : k ≤ 64) (hpy : py < 32) (d : FrameBuffer × Bool)
    {x y : Nat} (hx : x < 64) (hy : y < 32) :
    FrameBuffer.pixel (drawCols vx py b k d).1 x y =
      (FrameBuffer.pixel d.1 x y ^^ (decide (y = py) && decide (colDist vx x < k) && spriteBit b (colDist vx x))) := by
  induction k with
  | zero => simp [drawCols]
  | succ k ih =>
    rw [drawCols_succ, drawPixel, FrameBuffer.pixel_xorPixel, ih (by omega)]
    have hc : (x % 64 == (vx + k) % 64 % 64) = decide (colDist vx x = k) := by
      rw [Nat.mod_mod, Nat.mod_eq_of_lt hx]
      simp [Bool.beq_eq_decide_eq, colDist_eq_iff hx (show k < 64 by omega)]
    have hr : (y % 32 == py % 32) = decide (y = py) := by
      rw [Nat.mod_eq_of_lt hy, Nat.mod_eq_of_lt hpy]; simp [Bool.beq_eq_decide_eq]
    rw [hc, hr]
    by_cases h1 : y = py
    · by_cases h2 : colDist vx x = k
      · simp [h1, h2]
      · have : colDist vx x < k + 1 ↔ colDist vx x < k := by omega
        simp [h1, h2, this]
    · simp [h1]

theorem collision_drawCols (vx py : Nat) (b : Byte) (k : Nat) (hk : k ≤ 64) (hpy : py < 32) (d : FrameBuffer × Bool) :
    (drawCols vx py b k d).2 = true ↔ d.2 = true ∨
      ∃ x, x < 64 ∧ colDist vx x < k ∧ spriteBit b (colDist vx x) = true ∧ FrameBuffer.pixel d.1 x py = true := by
  induction k with
  | zero => simp [drawCols]
  | succ k ih =>
    have hx : (vx + k) % 64 < 64 := Nat.mod_lt _ (by decide)
    have hcol : colDist vx ((vx + k) % 64) = k := (colDist_eq_iff hx (by omega)).2 rfl
    rw [drawCols_succ, drawPixel]
    simp only [erases, Bool.or_eq_true, Bool.and_eq_true, ih (by omega : k ≤ 64)]
    rw [pixel_drawCols vx py b k (by omega) hpy d hx hpy, hcol]
    simp only [lt_irrefl, decide_false, Bool.and_false, Bool.false_and, Bool.xor_false]
    constructor
    · rintro ((h | ⟨x, h1, h2, h3, h4⟩) | ⟨h1, h2⟩)
      · exact .inl h
      · exact .inr ⟨x, h1, by omega, h3, h4⟩
      · exact .inr ⟨_, hx, by omega, by rwa [hcol], h1⟩
    · rintro (h | ⟨x, h1, h2, h3, h4⟩)
      · exact .inl (.inl h)
      · by_cases h5 : colDist vx x = k
        · obtain rfl := (colDist_eq_iff h1 (by omega)).1 h5
          exact .inr ⟨h4, by rwa [h5] at h3⟩
        · exact .inl (.inr ⟨x, h1, by omega, h3, h4⟩)

/-! ### The whole sprite -/

theorem drawSprite_zero (s : State) (vx vy : Nat) : drawSprite s vx vy 0 = (s.fb, false) := rfl

theorem drawSprite_succ (s : State) (vx vy k : Nat) :
    drawSprite s vx vy (k + 1) =
      drawCols vx ((vy + k) % 32) (s.memRead (s.i.toNat + k)) 8 (drawSprite s vx vy k) := by
  simp [drawSprite, List.range_succ, drawRow_eq, indexed]

/-- Whether the first `k` rows of the sprite at I cover a pixel with a set bit. -/
def coversNat (s : State) (vx vy k x y : Nat) : Bool :=
  decide (colDist vx x < 8) && decide (rowDist vy y < k) &&
    spriteBit (s.memRead (s.i.toNat + rowDist vy y)) (colDist vx x)

/-- Each pixel after a sprite is the pixel before it XOR the sprite's bit there. -/
theorem pixel_drawSprite (s : State) (vx vy k : Nat) (hk : k ≤ 32) {x y : Nat} (hx : x < 64) (hy : y < 32) :
    FrameBuffer.pixel (drawSprite s vx vy k).1 x y = (FrameBuffer.pixel s.fb x y ^^ coversNat s vx vy k x y) := by
  induction k with
  | zero => simp [drawSprite_zero, coversNat]
  | succ k ih =>
    rw [drawSprite_succ, pixel_drawCols _ _ _ 8 (by omega) (Nat.mod_lt _ (by decide)) _ hx hy, ih (by omega)]
    have hr : (y = (vy + k) % 32) ↔ rowDist vy y = k := (rowDist_eq_iff hy (by omega)).symm
    by_cases h : rowDist vy y = k
    · simp [coversNat, hr, h]
    · have : rowDist vy y < k + 1 ↔ rowDist vy y < k := by omega
      simp [coversNat, hr, h, this]

/-- A sprite collides exactly when some pixel was set and the sprite's bit there is set. -/
theorem collision_drawSprite (s : State) (vx vy k : Nat) (hk : k ≤ 32) :
    (drawSprite s vx vy k).2 = true ↔
      ∃ x y, x < 64 ∧ y < 32 ∧ FrameBuffer.pixel s.fb x y = true ∧ coversNat s vx vy k x y = true := by
  induction k with
  | zero => simp [drawSprite_zero, coversNat]
  | succ k ih =>
    have hy : (vy + k) % 32 < 32 := Nat.mod_lt _ (by decide)
    have hrow : rowDist vy ((vy + k) % 32) = k := (rowDist_eq_iff hy (by omega)).2 rfl
    rw [drawSprite_succ, collision_drawCols _ _ _ 8 (by omega) hy, ih (by omega)]
    constructor
    · rintro (⟨x, y, h1, h2, h3, h4⟩ | ⟨x, h1, h2, h3, h4⟩)
      · refine ⟨x, y, h1, h2, h3, ?_⟩
        simp only [coversNat, Bool.and_eq_true, decide_eq_true_eq] at h4 ⊢
        exact ⟨⟨h4.1.1, by omega⟩, h4.2⟩
      · rw [pixel_drawSprite s vx vy k (by omega) h1 hy] at h4
        refine ⟨x, _, h1, hy, ?_, ?_⟩
        · simpa [coversNat, hrow] using h4
        · simpa [coversNat, hrow, h2] using h3
    · rintro ⟨x, y, h1, h2, h3, h4⟩
      simp only [coversNat, Bool.and_eq_true, decide_eq_true_eq] at h4
      by_cases h : rowDist vy y = k
      · obtain rfl := (rowDist_eq_iff h2 (by omega)).1 h
        refine .inr ⟨x, h1, h4.1.1, by simpa [h] using h4.2, ?_⟩
        rw [pixel_drawSprite s vx vy k (by omega) h1 hy]
        simp [coversNat, h, h3]
      · refine .inl ⟨x, y, h1, h2, h3, ?_⟩
        simp only [coversNat, Bool.and_eq_true, decide_eq_true_eq]
        exact ⟨⟨h4.1.1, by omega⟩, h4.2⟩

/-- The covering of Safety.lean is this one. -/
theorem spriteCovers_eq (s : State) (vx vy : Byte) (n : Nat) (px : Fin 64) (py : Fin 32) :
    spriteCovers s vx vy n px py = coversNat s vx.toNat vy.toNat n px.val py.val := rfl

/-- Two frame buffers with the same pixels are the same. -/
theorem FrameBuffer.ext_pixel {f g : FrameBuffer} (h : ∀ x < 64, ∀ y < 32, pixel f x y = pixel g x y) : f = g := by
  apply Vector.ext
  intro y hy
  apply BitVec.eq_of_getLsbD_eq
  intro x hx
  have := h x hx y hy
  simpa [pixel, Nat.mod_eq_of_lt hx, Nat.mod_eq_of_lt hy] using this

theorem FrameBuffer.pixel_blank (x y : Nat) : pixel blank x y = false := by simp [pixel, blank]

end Sys2Proof.Machine
end

