-- ==== Sys2Proof/Laws/PerInstr.lean ====
section
/-! SUPPORT. Facts about every instruction as syntax, one lemma for each constructor: the word of an instruction is one
of the words of its row of the opcode table. -/

namespace Sys2Proof.Laws.TableRow

/-- The instruction's word, masked, is the match of its row. -/
def Statement (i : Instr) : Prop := encode i &&& (opcodeRow i).mask = (opcodeRow i).value

theorem cls (n2 : Nibble) : Statement (.cls n2) := by
  rw [Statement, encode, opcodeRow, show (0xF0FF : Word) = formatI 0xF 0x0 0xFF from rfl, formatI_and]
  simp; rfl

theorem ret (n2 : Nibble) : Statement (.ret n2) := by
  rw [Statement, encode, opcodeRow, show (0xF0FF : Word) = formatI 0xF 0x0 0xFF from rfl, formatI_and]
  simp; rfl

theorem jp (nnn : Addr) : Statement (.jp nnn) := by
  rw [Statement, encode, opcodeRow, show (0xF000 : Word) = formatA 0xF 0x000 from rfl, formatA_and]
  simp; rfl

theorem call (nnn : Addr) : Statement (.call nnn) := by
  rw [Statement, encode, opcodeRow, show (0xF000 : Word) = formatA 0xF 0x000 from rfl, formatA_and]
  simp; rfl

theorem seVxByte (x : RegIdx) (kk : Byte) : Statement (.seVxByte x kk) := by
  rw [Statement, encode, opcodeRow, show (0xF000 : Word) = formatI 0xF 0x0 0x00 from rfl, formatI_and]
  simp; rfl

theorem sneVxByte (x : RegIdx) (kk : Byte) : Statement (.sneVxByte x kk) := by
  rw [Statement, encode, opcodeRow, show (0xF000 : Word) = formatI 0xF 0x0 0x00 from rfl, formatI_and]
  simp; rfl

theorem seVxVy (x : RegIdx) (y : RegIdx) : Statement (.seVxVy x y) := by
  rw [Statement, encode, opcodeRow, show (0xF00F : Word) = formatR 0xF 0x0 0x0 0xF from rfl, formatR_and]
  simp; rfl

theorem ldVxByte (x : RegIdx) (kk : Byte) : Statement (.ldVxByte x kk) := by
  rw [Statement, encode, opcodeRow, show (0xF000 : Word) = formatI 0xF 0x0 0x00 from rfl, formatI_and]
  simp; rfl

theorem addVxByte (x : RegIdx) (kk : Byte) : Statement (.addVxByte x kk) := by
  rw [Statement, encode, opcodeRow, show (0xF000 : Word) = formatI 0xF 0x0 0x00 from rfl, formatI_and]
  simp; rfl

theorem ldVxVy (x : RegIdx) (y : RegIdx) : Statement (.ldVxVy x y) := by
  rw [Statement, encode, opcodeRow, show (0xF00F : Word) = formatR 0xF 0x0 0x0 0xF from rfl, formatR_and]
  simp; rfl

theorem orVxVy (x : RegIdx) (y : RegIdx) : Statement (.orVxVy x y) := by
  rw [Statement, encode, opcodeRow, show (0xF00F : Word) = formatR 0xF 0x0 0x0 0xF from rfl, formatR_and]
  simp; rfl

theorem andVxVy (x : RegIdx) (y : RegIdx) : Statement (.andVxVy x y) := by
  rw [Statement, encode, opcodeRow, show (0xF00F : Word) = formatR 0xF 0x0 0x0 0xF from rfl, formatR_and]
  simp; rfl

theorem xorVxVy (x : RegIdx) (y : RegIdx) : Statement (.xorVxVy x y) := by
  rw [Statement, encode, opcodeRow, show (0xF00F : Word) = formatR 0xF 0x0 0x0 0xF from rfl, formatR_and]
  simp; rfl

theorem addVxVy (x : RegIdx) (y : RegIdx) : Statement (.addVxVy x y) := by
  rw [Statement, encode, opcodeRow, show (0xF00F : Word) = formatR 0xF 0x0 0x0 0xF from rfl, formatR_and]
  simp; rfl

theorem subVxVy (x : RegIdx) (y : RegIdx) : Statement (.subVxVy x y) := by
  rw [Statement, encode, opcodeRow, show (0xF00F : Word) = formatR 0xF 0x0 0x0 0xF from rfl, formatR_and]
  simp; rfl

theorem shrVx (x : RegIdx) (n3 : Nibble) : Statement (.shrVx x n3) := by
  rw [Statement, encode, opcodeRow, show (0xF00F : Word) = formatR 0xF 0x0 0x0 0xF from rfl, formatR_and]
  simp; rfl

theorem subnVxVy (x : RegIdx) (y : RegIdx) : Statement (.subnVxVy x y) := by
  rw [Statement, encode, opcodeRow, show (0xF00F : Word) = formatR 0xF 0x0 0x0 0xF from rfl, formatR_and]
  simp; rfl

theorem shlVx (x : RegIdx) (n3 : Nibble) : Statement (.shlVx x n3) := by
  rw [Statement, encode, opcodeRow, show (0xF00F : Word) = formatR 0xF 0x0 0x0 0xF from rfl, formatR_and]
  simp; rfl

theorem sneVxVy (x : RegIdx) (y : RegIdx) : Statement (.sneVxVy x y) := by
  rw [Statement, encode, opcodeRow, show (0xF00F : Word) = formatR 0xF 0x0 0x0 0xF from rfl, formatR_and]
  simp; rfl

theorem ldIAddr (nnn : Addr) : Statement (.ldIAddr nnn) := by
  rw [Statement, encode, opcodeRow, show (0xF000 : Word) = formatA 0xF 0x000 from rfl, formatA_and]
  simp; rfl

theorem jpV0Addr (nnn : Addr) : Statement (.jpV0Addr nnn) := by
  rw [Statement, encode, opcodeRow, show (0xF000 : Word) = formatA 0xF 0x000 from rfl, formatA_and]
  simp; rfl

theorem rndVxByte (x : RegIdx) (kk : Byte) : Statement (.rndVxByte x kk) := by
  rw [Statement, encode, opcodeRow, show (0xF000 : Word) = formatI 0xF 0x0 0x00 from rfl, formatI_and]
  simp; rfl

theorem drwVxVyN (x : RegIdx) (y : RegIdx) (n : Fin 16) : Statement (.drwVxVyN x y n) := by
  rw [Statement, encode, opcodeRow, show (0xF000 : Word) = formatR 0xF 0x0 0x0 0x0 from rfl, formatR_and]
  simp; rfl

theorem skpVx (x : RegIdx) : Statement (.skpVx x) := by
  rw [Statement, encode, opcodeRow, show (0xF0FF : Word) = formatI 0xF 0x0 0xFF from rfl, formatI_and]
  simp; rfl

theorem sknpVx (x : RegIdx) : Statement (.sknpVx x) := by
  rw [Statement, encode, opcodeRow, show (0xF0FF : Word) = formatI 0xF 0x0 0xFF from rfl, formatI_and]
  simp; rfl

theorem ldVxDt (x : RegIdx) : Statement (.ldVxDt x) := by
  rw [Statement, encode, opcodeRow, show (0xF0FF : Word) = formatI 0xF 0x0 0xFF from rfl, formatI_and]
  simp; rfl

theorem ldVxK (x : RegIdx) : Statement (.ldVxK x) := by
  rw [Statement, encode, opcodeRow, show (0xF0FF : Word) = formatI 0xF 0x0 0xFF from rfl, formatI_and]
  simp; rfl

theorem ldDtVx (x : RegIdx) : Statement (.ldDtVx x) := by
  rw [Statement, encode, opcodeRow, show (0xF0FF : Word) = formatI 0xF 0x0 0xFF from rfl, formatI_and]
  simp; rfl

theorem ldStVx (x : RegIdx) : Statement (.ldStVx x) := by
  rw [Statement, encode, opcodeRow, show (0xF0FF : Word) = formatI 0xF 0x0 0xFF from rfl, formatI_and]
  simp; rfl

theorem addIVx (x : RegIdx) : Statement (.addIVx x) := by
  rw [Statement, encode, opcodeRow, show (0xF0FF : Word) = formatI 0xF 0x0 0xFF from rfl, formatI_and]
  simp; rfl

theorem ldFVx (x : RegIdx) : Statement (.ldFVx x) := by
  rw [Statement, encode, opcodeRow, show (0xF0FF : Word) = formatI 0xF 0x0 0xFF from rfl, formatI_and]
  simp; rfl

theorem ldBVx (x : RegIdx) : Statement (.ldBVx x) := by
  rw [Statement, encode, opcodeRow, show (0xF0FF : Word) = formatI 0xF 0x0 0xFF from rfl, formatI_and]
  simp; rfl

theorem ldMemVx (x : RegIdx) : Statement (.ldMemVx x) := by
  rw [Statement, encode, opcodeRow, show (0xF0FF : Word) = formatI 0xF 0x0 0xFF from rfl, formatI_and]
  simp; rfl

theorem ldVxMem (x : RegIdx) : Statement (.ldVxMem x) := by
  rw [Statement, encode, opcodeRow, show (0xF0FF : Word) = formatI 0xF 0x0 0xFF from rfl, formatI_and]
  simp; rfl

end Sys2Proof.Laws.TableRow
end

