-- ==== Sys2Proof/Laws/Step.lean ====
section
/-! SUPPORT. What the branching meanings and a step can do, said once: each answers one of the listed cases. -/

namespace Sys2Proof.Machine

/-! ### The meanings with more than one outcome -/

/-- CALL with room on the stack. -/
theorem execCall_of_room (nnn : Addr) {s : State} (h : s.sp.val < 16) : execCall nnn s = .next { s with
    stack := s.stack.set s.sp.val (s.pc + 2), sp := ⟨s.sp.val + 1, by omega⟩, pc := addrOperand nnn } := by
  unfold execCall
  rw [State.push_eq_some.2 ⟨h, rfl⟩]; rfl

/-- CALL at capacity. -/
theorem execCall_of_full (nnn : Addr) {s : State} (h : s.sp.val = 16) :
    execCall nnn s = .next (s.raiseFault .stackOverflow) := by
  unfold execCall
  rw [State.push_eq_none.2 h]

/-- RET with an entry on the stack. -/
theorem execRet_of_entry {s : State} (h : 0 < s.sp.val) : execRet s = .next { s with
    pc := s.stack[s.sp.val - 1]'(by omega), sp := ⟨s.sp.val - 1, by omega⟩ } := by
  unfold execRet
  rw [State.pop_eq_some.2 ⟨h, rfl, rfl⟩]; rfl

/-- RET on an empty stack. -/
theorem execRet_of_empty {s : State} (h : s.sp.val = 0) : execRet s = .next (s.raiseFault .stackUnderflow) := by
  unfold execRet
  rw [State.pop_eq_none.2 h]

/-- The key wait with a key down. -/
theorem execLdVxK_of_key (x : RegIdx) {s : State} {k : KeyIdx} (h : s.lowestKeyDown = some k) :
    execLdVxK x s = .next ((s.writeV x (BitVec.ofNat 8 k.val)).setWait false .running).advance := by
  unfold execLdVxK
  rw [h]

/-- The key wait with no key down. -/
theorem execLdVxK_of_none (x : RegIdx) {s : State} (h : s.lowestKeyDown = none) :
    execLdVxK x s = .next (s.setWait true .awaitingInput) := by
  unfold execLdVxK
  rw [h]

/-- CALL answers a pushed return address and a jump, or a fault entry at capacity. -/
theorem execCall_cases {nnn : Addr} {s t : State} (h : execCall nnn s = .next t) :
    (∃ hs : s.sp.val < 16, t = { s with
        stack := s.stack.set s.sp.val (s.pc + 2), sp := ⟨s.sp.val + 1, by omega⟩, pc := addrOperand nnn }) ∨
      (s.sp.val = 16 ∧ t = s.raiseFault .stackOverflow) := by
  unfold execCall at h
  split at h
  · rename_i u hu
    obtain ⟨hs, rfl⟩ := State.push_eq_some.1 hu
    exact .inl ⟨hs, by simpa [State.jumpTo] using h.symm⟩
  · rename_i hu
    exact .inr ⟨State.push_eq_none.1 hu, by simpa using h.symm⟩

/-- RET answers a popped return address in PC, or a fault entry on an empty stack. -/
theorem execRet_cases {s t : State} (h : execRet s = .next t) :
    (∃ hs : 0 < s.sp.val, t = { s with
        pc := s.stack[s.sp.val - 1]'(by omega), sp := ⟨s.sp.val - 1, by omega⟩ }) ∨
      (s.sp.val = 0 ∧ t = s.raiseFault .stackUnderflow) := by
  unfold execRet at h
  split at h
  · rename_i a u hu
    obtain ⟨hs, rfl, rfl⟩ := State.pop_eq_some.1 hu
    exact .inl ⟨hs, by simpa [State.jumpTo] using h.symm⟩
  · rename_i hu
    exact .inr ⟨State.pop_eq_none.1 hu, by simpa using h.symm⟩

/-- The key wait answers the lowest key down and goes on in Running, or waits at the same PC in AwaitingInput. -/
theorem execLdVxK_cases {x : RegIdx} {s t : State} (h : execLdVxK x s = .next t) :
    (∃ k, s.lowestKeyDown = some k ∧ t = { s with
        v := s.v.set x (BitVec.ofNat 8 k.val), pc := s.pc + 2, awaitingInput := false, mode := .running }) ∨
      (s.lowestKeyDown = none ∧ t = { s with awaitingInput := true, mode := .awaitingInput }) := by
  unfold execLdVxK at h
  split at h
  · rename_i k hk
    exact .inl ⟨k, hk, by simpa [State.advance, State.jumpTo, State.writeV, State.nextPc, State.setWait] using h.symm⟩
  · rename_i hk
    exact .inr ⟨hk, by simpa [State.setWait] using h.symm⟩

/-! ### What an instruction does to the mode -/

/-- The mode after an instruction: the key wait sets Running or AwaitingInput, a CALL at capacity and a RET on an empty
stack set Faulted, and everything else leaves the mode as it was (`60_exceptions.md` R215). -/
theorem exec_mode_cases {i : Instr} {s t : State} (h : exec i s = .next t) :
    ((∃ x, i = .ldVxK x) ∧ ((∃ k, s.lowestKeyDown = some k ∧ t.mode = .running) ∨
      (s.lowestKeyDown = none ∧ t.mode = .awaitingInput))) ∨
    ((∃ nnn, i = .call nnn) ∧ s.sp.val = 16 ∧ t.mode = .faulted) ∨
    ((∃ n2, i = .ret n2) ∧ s.sp.val = 0 ∧ t.mode = .faulted) ∨
    ((∀ x, i ≠ .ldVxK x) ∧ (∀ nnn, i = .call nnn → s.sp.val ≠ 16) ∧ (∀ n2, i = .ret n2 → s.sp.val ≠ 0) ∧
      t.mode = s.mode) := by
  have skip : ∀ b, (s.skipIf b).mode = s.mode := fun b => by unfold State.skipIf; split <;> rfl
  cases i
  case call nnn =>
    rcases execCall_cases h with ⟨hs, rfl⟩ | ⟨hs, rfl⟩
    · exact .inr (.inr (.inr ⟨by simp, fun _ _ => by omega, by simp, rfl⟩))
    · exact .inr (.inl ⟨⟨_, rfl⟩, hs, rfl⟩)
  case ret n2 =>
    rcases execRet_cases h with ⟨hs, rfl⟩ | ⟨hs, rfl⟩
    · exact .inr (.inr (.inr ⟨by simp, by simp, fun _ _ => by omega, rfl⟩))
    · exact .inr (.inr (.inl ⟨⟨_, rfl⟩, hs, rfl⟩))
  case ldVxK x =>
    rcases execLdVxK_cases h with ⟨k, hk, rfl⟩ | ⟨hs, rfl⟩
    · exact .inl ⟨⟨_, rfl⟩, .inl ⟨k, hk, rfl⟩⟩
    · exact .inl ⟨⟨_, rfl⟩, .inr ⟨hs, rfl⟩⟩
  case ldMemVx x =>
    refine .inr (.inr (.inr ⟨by simp, by simp, by simp, ?_⟩))
    simp only [exec, execLdMemVx, Host.Outcome.next.injEq] at h
    rw [← h, storeRegs_rest]; rfl
  case ldVxMem x =>
    refine .inr (.inr (.inr ⟨by simp, by simp, by simp, ?_⟩))
    simp only [exec, execLdVxMem, Host.Outcome.next.injEq] at h
    rw [← h, loadRegs_rest]; rfl
  all_goals
    cases h
    exact .inr (.inr (.inr ⟨by simp, by simp, by simp, by first | rfl | exact skip _⟩))

/-! ### The lowest key down -/

/-- The answer is a key that is down, and every lower key is up. -/
theorem State.lowestKeyDown_eq_some {s : State} {k : KeyIdx} :
    s.lowestKeyDown = some k ↔ s.keyDown k = true ∧ ∀ j < k, s.keyDown j = false := by
  have e : ∀ j : KeyIdx, (List.finRange 16)[j.val]'(by simp) = j := fun j => by simp
  unfold State.lowestKeyDown
  rw [List.find?_eq_some_iff_getElem]
  constructor
  · rintro ⟨hk, i, hi, rfl, hlt⟩
    refine ⟨hk, fun j hj => ?_⟩
    have hj' : j < (⟨i, by simpa using hi⟩ : Fin 16) := by simpa using hj
    have := hlt j.val hj'
    simpa using this
  · rintro ⟨hk, hlt⟩
    refine ⟨hk, k.val, by simp, e k, fun j hj => ?_⟩
    simpa using hlt ⟨j, by omega⟩ hj

/-- No answer exactly when every key is up. -/
theorem State.lowestKeyDown_eq_none {s : State} : s.lowestKeyDown = none ↔ ∀ k, s.keyDown k = false := by
  simp [State.lowestKeyDown]

/-! ### The step -/

/-- A step answers one of three things: nothing changed in Faulted, the meaning of the classified instruction, or the
no-operation of an Unknown word. -/
theorem step_cases {s t : State} (h : step s = .next t) :
    (s.mode = .faulted ∧ t = s) ∨
      (s.mode ≠ .faulted ∧ ∃ i, classify s.fetchWord = .op i ∧ exec i s = .next t) ∨
      (s.mode ≠ .faulted ∧ ∃ w, classify s.fetchWord = .unknown w ∧ t = s.advance) := by
  unfold step at h
  split at h
  · rename_i hm
    exact .inl ⟨hm, by simpa [execFaulted] using h.symm⟩
  · rename_i hm
    cases hc : classify s.fetchWord with
    | op i => exact .inr (.inl ⟨hm, i, rfl, by simpa [hc, execClassified] using h⟩)
    | unknown w => exact .inr (.inr ⟨hm, w, rfl, by simpa [hc, execClassified, execUnknown] using h.symm⟩)

end Sys2Proof.Machine
end

