-- ==== Sys2Proof/Tests/Slice0.lean ====
section
/-! SUPPORT. The model's own tests. The expected values are those of `95_test_vectors.md` (its numbers S and T stand
beside the tests) or are worked out by hand from the rule named; the words are written out from `30_encoding.md`. The
last part shows, for every statement with hypotheses, states and operands that meet them. -/

open Sys2Proof Sys2Proof.Machine

namespace Sys2Proof.Tests

/-! ### Helpers -/

/-- The state after reset with registers set. -/
def regs (l : List (RegIdx × Byte)) : State := l.foldl (fun t p => t.writeV p.1 p.2) State.reset

/-- The state with bytes stored from an address. -/
def bytes (a : Nat) (l : List Byte) (s : State) : State := { s with mem := Memory.writeBytes s.mem a l }

/-- The state with pixels set. -/
def pixels (l : List (Nat × Nat)) (s : State) : State :=
  { s with fb := l.foldl (fun f p => FrameBuffer.xorPixel f p.1 p.2 true) s.fb }

/-- The state with keys down. -/
def keys (l : List KeyIdx) (s : State) : State := l.foldl (fun t k => t.setKey k true) s

/-- The next state of an outcome. -/
def nextOf : Host.Outcome State Fault Refusal → Option State
  | .next t => some t
  | .fault _ => none
  | .refused _ => none

/-- What one step shows of its next state, with the word placed where the step fetches. -/
def see {α : Type} (w : Nat) (s : State) (f : State → α) : Option α :=
  (nextOf (Sys2Proof.Machine.step (s.withFetchWord 16 w))).map f

/-! ### Well-formedness (R76): the one check, on each constructor it can refuse -/

theorem test_cls_n2_refused_when_strict : Instr.wellFormedWith true (.cls 7) = false := by decide
theorem test_ret_n2_refused_when_strict : Instr.wellFormedWith true (.ret 10) = false := by decide
theorem test_cls_n2_admitted_here : Instr.wellFormed (.cls 7) = true := by decide

/-! ### Decoding: words written out bit by bit (R75 to R81), every constructor -/

theorem test_decode_control :
    classify 0b0000_0111_1110_0000 = .op (.cls 7) ∧ classify 0b0000_1010_1110_1110 = .op (.ret 10) := by decide

theorem test_decode_address :
    classify 0b0001_1010_1011_1100 = .op (.jp 0xABC) ∧ classify 0b0010_0010_0000_0000 = .op (.call 0x200) ∧
    classify 0b1010_0011_0000_0000 = .op (.ldIAddr 0x300) ∧
    classify 0b1011_1111_1111_1111 = .op (.jpV0Addr 0xFFF) := by decide

theorem test_decode_reg_imm :
    classify 0b0011_1010_0100_0010 = .op (.seVxByte 10 0x42) ∧
    classify 0b0100_1010_0100_0010 = .op (.sneVxByte 10 0x42) ∧
    classify 0b0110_1111_1010_1011 = .op (.ldVxByte 15 0xAB) ∧
    classify 0b0111_0011_0000_0001 = .op (.addVxByte 3 0x01) ∧
    classify 0b1100_0100_0000_1111 = .op (.rndVxByte 4 0x0F) := by decide

theorem test_decode_reg_pair :
    classify 0b0101_0001_0010_0000 = .op (.seVxVy 1 2) ∧ classify 0b1000_0001_0010_0000 = .op (.ldVxVy 1 2) ∧
    classify 0b1000_0001_0010_0001 = .op (.orVxVy 1 2) ∧ classify 0b1000_0001_0010_0010 = .op (.andVxVy 1 2) ∧
    classify 0b1000_0001_0010_0011 = .op (.xorVxVy 1 2) ∧ classify 0b1000_0001_0010_0100 = .op (.addVxVy 1 2) ∧
    classify 0b1000_0001_0010_0101 = .op (.subVxVy 1 2) ∧ classify 0b1000_0001_1111_0110 = .op (.shrVx 1 15) ∧
    classify 0b1000_0001_0010_0111 = .op (.subnVxVy 1 2) ∧ classify 0b1000_0001_0010_1110 = .op (.shlVx 1 2) ∧
    classify 0b1001_0001_0010_0000 = .op (.sneVxVy 1 2) := by decide

theorem test_decode_draw :
    classify 0b1101_0000_0001_0101 = .op (.drwVxVyN 0 1 5) ∧
    classify 0b1101_1111_1110_1101 = .op (.drwVxVyN 15 14 13) := by decide

theorem test_decode_keyed :
    classify 0b1110_0010_1001_1110 = .op (.skpVx 2) ∧ classify 0b1110_0010_1010_0001 = .op (.sknpVx 2) ∧
    classify 0b1111_0010_0000_0111 = .op (.ldVxDt 2) ∧ classify 0b1111_0010_0000_1010 = .op (.ldVxK 2) ∧
    classify 0b1111_0010_0001_0101 = .op (.ldDtVx 2) ∧ classify 0b1111_0010_0001_1000 = .op (.ldStVx 2) ∧
    classify 0b1111_0010_0001_1110 = .op (.addIVx 2) ∧ classify 0b1111_0010_0010_1001 = .op (.ldFVx 2) ∧
    classify 0b1111_0010_0011_0011 = .op (.ldBVx 2) ∧ classify 0b1111_0010_0101_0101 = .op (.ldMemVx 2) ∧
    classify 0b1111_0010_0110_0101 = .op (.ldVxMem 2) := by decide

theorem test_decode_unknown :
    classify 0x0123 = .unknown 0x0123 ∧ classify 0x00FD = .unknown 0x00FD ∧ classify 0x512F = .unknown 0x512F ∧
    classify 0x8128 = .unknown 0x8128 ∧ classify 0x9121 = .unknown 0x9121 ∧ classify 0xE29F = .unknown 0xE29F ∧
    classify 0xF275 = .unknown 0xF275 ∧ classifyWith true 0x07E0 = .unknown 0x07E0 := by decide

/-- The first byte of a word is its high half, in the table's numbering too (R55). -/
theorem test_decode_bytes :
    decodeBytes 0x81 0x24 = .op (.addVxVy 1 2) ∧ decodeTableWord 16 0x8124 = some (.addVxVy 1 2) ∧
    decodeTableWord 16 0x8128 = none := by decide

theorem test_text :
    wordText 0x8124 = "ADD V1,V2" ∧ wordText 0xF255 = "LD [I],V2" ∧ wordText 0x5AB1 = "0x5AB1" ∧
    listing [0x12, 0x00, 0x60] = ["JP 0x200", "LD V0,0x00"] := by decide

/-! ### Control and Address -/

/-- T4 -/
theorem test_cls : see 0x00E0 (pixels [(60, 0), (5, 31)] (regs [(15, 1)])) (fun t =>
    (t.fb, t.drawReady, t.readV 15, t.pc)) = some (Vector.replicate 32 0, false, 1, 0x202) := by decide

/-- T8 -/
theorem test_ret : see 0x0AEE { State.reset with sp := 2, stack := (State.reset.stack.set 0 0x206).set 1 0x301 }
    (fun t => (t.pc, t.sp, t.stack[1], t.mode)) = some (0x301, 1, 0x301, .running) := by decide

/-- T10 -/
theorem test_ret_underflow : see 0x00EE State.reset (fun t => (t.mode, t.faultKind, t.pc, t.sp)) =
    some (.faulted, .stackUnderflow, 0x200, 0) := by decide

/-- T20 -/
theorem test_jp : see 0x1ABC State.reset (fun t => (t.pc, t.sp)) = some (0xABC, 0) := by decide

/-- T24 -/
theorem test_call : see 0x2ABC { State.reset with sp := 15 } (fun t => (t.stack[15], t.sp, t.pc)) =
    some (0x202, 16, 0xABC) := by decide

/-- T25 -/
theorem test_call_overflow : see 0x2ABC { State.reset with sp := 16, stack := Vector.replicate 16 0x111 } (fun t =>
    (t.mode, t.faultKind, t.pc, t.sp, t.stack[15])) = some (.faulted, .stackOverflow, 0x200, 16, 0x111) := by decide

/-- T26 -/
theorem test_ld_i : see 0xAFFF State.reset (fun t => (t.i, t.pc)) = some (0xFFF, 0x202) := by decide

/-- T28 -/
theorem test_jp_v0 : see 0xBFFF (regs [(0, 0xFF)]) (fun t => t.pc) = some 0x10FE := by decide

/-- T1 -/
theorem test_unknown : see 0x5AB1 (pixels [(60, 0)] (regs [(1, 0x12)])) (fun t =>
    (t.pc, t.readV 1, t.pixelAt 60 0, t.mode)) = some (0x202, 0x12, true, .running) := by decide

/-! ### Registers and immediates -/

/-- T40, T41 -/
theorem test_se_byte : see 0x3A42 (regs [(10, 0x42)]) (fun t => t.pc) = some 0x204 ∧
    see 0x3A42 (regs [(10, 0x43)]) (fun t => t.pc) = some 0x202 := by decide

/-- T42, T43 -/
theorem test_sne_byte : see 0x4A42 (regs [(10, 0x42)]) (fun t => t.pc) = some 0x202 ∧
    see 0x4A42 (regs [(10, 0x43)]) (fun t => t.pc) = some 0x204 := by decide

/-- T44 -/
theorem test_ld_byte : see 0x6FAB State.reset (fun t => (t.readV 15, t.pc)) = some (0xAB, 0x202) := by decide

/-- T46 -/
theorem test_add_byte : see 0x7301 (regs [(3, 0xFF), (15, 1)]) (fun t => (t.readV 3, t.readV 15)) =
    some (0, 1) := by decide

/-- T49: the effect of RND for the drawn byte A7. -/
theorem test_rnd : (rndWith 0xA7 4 0x0F (regs [(4, 0x99), (15, 1)])).readV 4 = 0x07 ∧
    (rndWith 0xA7 4 0x0F (regs [(4, 0x99), (15, 1)])).readV 15 = 1 := by decide

/-- T50: with mask 0 the result is 0. A step of the word counts the draw and advances PC. -/
theorem test_rnd_masked : (rndWith 0xFF 4 0x00 (regs [(4, 0x99)])).readV 4 = 0 ∧
    see 0xC400 (regs [(4, 0x99)]) (fun t => (t.pc, t.rndCount)) = some (0x202, 1) := by decide

/-! ### Register pairs -/

/-- T60, T61 -/
theorem test_se_reg : see 0x5120 (regs [(1, 7), (2, 7)]) (fun t => t.pc) = some 0x204 ∧
    see 0x5120 (regs [(1, 7), (2, 8)]) (fun t => t.pc) = some 0x202 := by decide

/-- T63, T64 -/
theorem test_sne_reg : see 0x9120 (regs [(1, 7), (2, 7)]) (fun t => t.pc) = some 0x202 ∧
    see 0x9120 (regs [(1, 7), (2, 8)]) (fun t => t.pc) = some 0x204 := by decide

/-- T66 -/
theorem test_ld_reg : see 0x8120 (regs [(1, 0x11), (2, 0x22), (15, 1)]) (fun t =>
    (t.readV 1, t.readV 2, t.readV 15, t.pc)) = some (0x22, 0x22, 1, 0x202) := by decide

/-- T67 -/
theorem test_or : see 0x8121 (regs [(1, 0xF0), (2, 0x0F), (15, 1)]) (fun t => (t.readV 1, t.readV 15)) =
    some (0xFF, 1) := by decide

/-- T68 -/
theorem test_and : see 0x8122 (regs [(1, 0xF0), (2, 0x3C), (15, 1)]) (fun t => (t.readV 1, t.readV 15)) =
    some (0x30, 1) := by decide

/-- T69 -/
theorem test_xor : see 0x8123 (regs [(1, 0xFF), (2, 0x0F), (15, 1)]) (fun t => (t.readV 1, t.readV 15)) =
    some (0xF0, 1) := by decide

/-- S3 -/
theorem test_add : see 0x8124 (regs [(1, 200), (2, 100)]) (fun t => (t.readV 1, t.readV 2, t.readV 15, t.pc)) =
    some (44, 100, 1, 0x202) := by decide

/-- T72: a sum of 255 has no carry. T101: with x = F the flag stays. -/
theorem test_add_edges : see 0x8124 (regs [(1, 0x64), (2, 0x9B)]) (fun t => (t.readV 1, t.readV 15)) = some (0xFF, 0) ∧
    see 0x8F14 (regs [(15, 1), (1, 1)]) (fun t => t.readV 15) = some 0 := by decide

/-- S4 -/
theorem test_sub : see 0x8125 (regs [(1, 10), (2, 20), (15, 1)]) (fun t => (t.readV 1, t.readV 15)) =
    some (246, 0) := by decide

/-- T77: equal operands do not borrow. T110: VF as the second operand is read before the flag is written. -/
theorem test_sub_edges : see 0x8125 (regs [(1, 0x0A), (2, 0x0A)]) (fun t => (t.readV 1, t.readV 15)) = some (0, 1) ∧
    see 0x81F5 (regs [(1, 0), (15, 1)]) (fun t => (t.readV 1, t.readV 15)) = some (0xFF, 0) := by decide

/-- S5 -/
theorem test_subn : see 0x8127 (regs [(1, 10), (2, 20)]) (fun t => (t.readV 1, t.readV 2, t.readV 15)) =
    some (10, 20, 1) := by decide

/-- T80 -/
theorem test_subn_borrow : see 0x8127 (regs [(1, 0x14), (2, 0x0A), (15, 1)]) (fun t => (t.readV 1, t.readV 15)) =
    some (0xF6, 0) := by decide

/-- T83 -/
theorem test_shr : see 0x8126 (regs [(1, 5), (2, 0xAA)]) (fun t => (t.readV 1, t.readV 2, t.readV 15)) =
    some (2, 0xAA, 1) := by decide

/-- T104 -/
theorem test_shr_vf : see 0x8F06 (regs [(15, 4)]) (fun t => t.readV 15) = some 0 := by decide

/-- T88 -/
theorem test_shl : see 0x812E (regs [(1, 0x81), (2, 0xAA)]) (fun t => (t.readV 1, t.readV 2, t.readV 15)) =
    some (2, 0xAA, 1) := by decide

/-- T106 -/
theorem test_shl_vf : see 0x8F0E (regs [(15, 0x81)]) (fun t => t.readV 15) = some 1 := by decide

/-! ### The sprite writer: the whole row of pixels, bit x of row y -/

/-- S6, first step: columns 60..63 and 0..3. -/
theorem test_drw_wraps : see 0xD011 { bytes 0x300 [0xFF] (regs [(0, 60)]) with i := 0x300 } (fun t =>
    (t.fb[0], t.fb[1], t.readV 15, t.drawReady)) = some (0xF00000000000000F, 0, 0, true) := by decide

/-- T124: one pixel set, one erased. -/
theorem test_drw_collides : see 0xD121 { pixels [(11, 3)] (bytes 0x300 [0xC0] (regs [(1, 10), (2, 3)])) with i := 0x300 }
    (fun t => (t.fb[3], t.readV 15, t.i, t.pc)) = some (0x400, 1, 0x300, 0x202) := by decide

/-! ### The keyed family -/

/-- T140, T141 -/
theorem test_skp : see 0xE29E (keys [10] (regs [(2, 0x0A)])) (fun t => t.pc) = some 0x204 ∧
    see 0xE29E (regs [(2, 0x0A)]) (fun t => t.pc) = some 0x202 := by decide

/-- T142, T143 -/
theorem test_sknp : see 0xE2A1 (keys [10] (regs [(2, 0x0A)])) (fun t => t.pc) = some 0x202 ∧
    see 0xE2A1 (regs [(2, 0x0A)]) (fun t => t.pc) = some 0x204 := by decide

/-- T144, both values of `KEY_INDEX_OOR`. -/
theorem test_key_number_above_15 : keySelectedWith .mask4 (keys [10] State.reset) 0x1A = true ∧
    keySelectedWith .notDown (keys [10] State.reset) 0x1A = false := by decide

/-- T148 -/
theorem test_key_wait : see 0xF50A (regs [(5, 0x77)]) (fun t => (t.pc, t.readV 5, t.awaitingInput, t.mode)) =
    some (0x200, 0x77, true, .awaitingInput) := by decide

/-- S8, the second step: keys 3 and 9 are down. -/
theorem test_key_wait_found :
    see 0xF50A { keys [9, 3] (regs [(5, 0x77)]) with awaitingInput := true, mode := .awaitingInput }
      (fun t => (t.pc, t.readV 5, t.awaitingInput, t.mode)) = some (0x202, 3, false, .running) := by decide

/-- T153 -/
theorem test_ld_vx_dt : see 0xF307 { State.reset with dt := 0x2C } (fun t => (t.readV 3, t.dt, t.pc)) =
    some (0x2C, 0x2C, 0x202) := by decide

/-- T154 -/
theorem test_ld_dt_vx : see 0xF315 { regs [(3, 0x3C)] with dt := 5 } (fun t => (t.dt, t.st)) = some (0x3C, 0) := by decide

/-- T156 -/
theorem test_ld_st_vx : see 0xF318 { regs [(3, 5)] with dt := 9 } (fun t => (t.st, t.dt)) = some (5, 9) := by decide

/-- T158, T159 -/
theorem test_add_i : see 0xF21E { regs [(2, 1)] with i := 0x0FFF } (fun t => (t.i, t.readV 15)) = some (0x1000, 0) ∧
    see 0xF21E { regs [(2, 1), (15, 1)] with i := 0xFFFF } (fun t => (t.i, t.readV 15)) = some (0, 1) := by decide

/-- T165 -/
theorem test_ld_f : see 0xF129 (regs [(1, 0xFF)]) (fun t => t.i) = some 0x04FB := by decide

/-- T172: the three digits of 123 across the end of memory. -/
theorem test_ld_b : see 0xF033 { regs [(0, 123)] with i := 0x0FFE } (fun t =>
    (t.memRead 0xFFE, t.memRead 0xFFF, t.memRead 0x000, t.memRead 0x001, t.i)) =
      some (1, 2, 3, 0x90, 0x0FFE) := by decide

/-- T174 -/
theorem test_store_regs : see 0xF255 { regs [(0, 1), (1, 2), (2, 3), (3, 4)] with i := 0x400 } (fun t =>
    (t.memRead 0x400, t.memRead 0x401, t.memRead 0x402, t.memRead 0x403, t.i)) = some (1, 2, 3, 0, 0x400) := by decide

/-- T178 -/
theorem test_load_regs : see 0xF265 { bytes 0x300 [2, 5, 4, 7] (regs [(3, 0x99)]) with i := 0x300 } (fun t =>
    (t.readV 0, t.readV 1, t.readV 2, t.readV 3, t.i)) = some (2, 5, 4, 0x99, 0x300) := by decide

/-- T181: the second byte comes from address 0, the font's first. -/
theorem test_load_regs_wraps : see 0xF165 { bytes 0xFFF [0x5A] State.reset with i := 0x0FFF } (fun t =>
    (t.readV 0, t.readV 1)) = some (0x5A, 0xF0) := by decide

/-! ### Events, memory, construction, outputs -/

/-- R210: floor 0, signals cleared. -/
theorem test_tick : State.tick { State.reset with dt := 1, st := 0, drawReady := true, awaitingInput := true } =
    State.reset := by decide

theorem test_set_key : (keys [3] State.reset).key[3] = true ∧ ((keys [3] State.reset).setKey 3 false) = State.reset := by
  decide

/-- R53: writing what an unlisted address reads as removes the entry (log entry 34). -/
theorem test_memory_canonical : ((State.reset.memWrite 0x300 7).memWrite 0x300 0).mem = [] ∧
    ((State.reset.memWrite 0x1300 7).memWrite 0x000 1).mem = [(0x000, 1), (0x300, 7)] := by decide

/-- R252: an odd image at 0x200; the byte behind its last one reads as 0 and is not listed. -/
theorem test_image_bytes : Memory.writeBytes [] Config.progBase [0x12, 0x00, 0x60] = [(0x200, 0x12), (0x202, 0x60)] ∧
    Memory.readAt (Memory.writeBytes [] Config.progBase [0x12, 0x00, 0x60]) 0x203 = 0 := by decide

/-- R250, R253: construction with the default font and no image lists nothing beyond the reset contents. -/
theorem test_construct : construct Config.font [] = .ok State.reset := by rfl

theorem test_outputs : stepOutput (State.reset.withFetchWord 16 0x5AB1) = ⟨.normal, .unknown 0x5AB1⟩ ∧
    stepOutput (State.reset.withFetchWord 16 0xD011) = ⟨.drawReady, .none⟩ ∧
    stepOutput (State.reset.withFetchWord 16 0xF50A) = ⟨.awaitingInput, .none⟩ ∧
    stepOutput (State.reset.withFetchWord 16 0x00EE) = ⟨.fault, .none⟩ := by decide

/-- S9 with a budget of 2: after the first frame DT is 4. -/
theorem test_frame : (match frame 2 (bytes 0x200 [0x60, 0x05, 0xF0, 0x15] State.reset) with
    | .next r => (r.state.dt, r.state.pc, r.faulted)
    | .fault _ => (0, 0, false)
    | .refused _ => (0, 0, false)) = (4, 0x204, false) := by decide

/-! ### Witnesses: for every statement with hypotheses, states and operands that meet them -/

/-- `DecodeOfEncodeIsTheInstruction`: both values of the parameter. -/
theorem witness_decode_of_encode :
    Instr.wellFormedWith true (.cls 0) = true ∧ Instr.wellFormedWith false (.ret 15) = true := by decide

/-- `EncodeOfDecodeIsTheWord` -/
theorem witness_encode_of_decode : classifyWith true 0x00EE = .op (.ret 0) ∧
    classifyWith false 0xFF65 = .op (.ldVxMem 15) := by decide

/-- `OpcodeTableIsDisjointAndTheDecoderFollowsIt`: the third and the fourth clause. -/
theorem witness_opcode_table : classify 0xFF65 = .op (.ldVxMem 15) ∧
    (⟨0xF0FF, 0x00E0⟩ : OpcodeRow) ∈ opcodeRows ∧ (⟨0xF0FF, 0x00E0⟩ : OpcodeRow).accepts 0x0FE0 = true := by decide

/-- `ControlWordsForBothParameterValues`: a word under each clause, for each value of the parameter. -/
theorem witness_control_words :
    (0x0FE0#16).toNat / 4096 = 0 ∧ ((0x0FE0#16).toNat / 16 % 16 = 0xE ∧ (0x0FE0#16).toNat % 16 = 0 ∧
      (false = true → (0x0FE0#16).toNat / 256 % 16 = 0)) ∧
    ((0x00EE#16).toNat / 16 % 16 = 0xE ∧ (0x00EE#16).toNat % 16 = 0xE ∧
      (true = true → (0x00EE#16).toNat / 256 % 16 = 0)) ∧
    ¬ ((0x0FE0#16).toNat / 16 % 16 = 0xE ∧ ((0x0FE0#16).toNat % 16 = 0 ∨ (0x0FE0#16).toNat % 16 = 0xE) ∧
      (true = true → (0x0FE0#16).toNat / 256 % 16 = 0)) ∧
    ¬ ((0x0FFF#16).toNat / 16 % 16 = 0xE ∧ ((0x0FFF#16).toNat % 16 = 0 ∨ (0x0FFF#16).toNat % 16 = 0xE) ∧
      (false = true → (0x0FFF#16).toNat / 256 % 16 = 0)) := by decide

/-- `StepRunsTheDecodedInstruction`: an ordinary PC, and one whose second byte lies at address 0. -/
theorem witness_step_runs :
    State.reset.mode ≠ .faulted ∧
    decodeBytes ((bytes 0x200 [0x81, 0x24] State.reset).memRead 0x200)
      ((bytes 0x200 [0x81, 0x24] State.reset).memRead 0x201) = .op (.addVxVy 1 2) ∧
    decodeBytes ((bytes 0xFFF [0x60] State.reset).memRead (0xFFFF#16).toNat)
      ((bytes 0xFFF [0x60] State.reset).memRead ((0xFFFF#16).toNat + 1)) = .op (.ldVxByte 0 0xF0) := by decide

/-- `PlacedWordIsFetchedAndRun`: the largest word, a word that decodes, and an address beside the two. -/
theorem witness_placed_word : 0xFFFF < 65536 ∧ State.reset.mode ≠ .faulted ∧
    decodeTableWord 16 0xDFFF = some (.drwVxVyN 15 15 15) ∧
    wrapAddr 0x202 ≠ wrapAddr State.reset.pc.toNat ∧ wrapAddr 0x202 ≠ wrapAddr (State.reset.pc.toNat + 1) := by decide

/-- `UnknownWordOnlyAdvancesPc`: the empty memory after reset. -/
theorem witness_unknown : State.reset.mode ≠ .faulted ∧ classify State.reset.fetchWord = .unknown 0x0000 := by decide

/-- A machine that faulted: RET on an empty stack, at 0x200. -/
def faulted : State := { State.reset.withFetchWord 16 0x00EE with mode := .faulted, faultKind := .stackUnderflow }

/-- A machine that waits for a key, at 0x200. -/
def waiting : State := { State.reset.withFetchWord 16 0xF50A with mode := .awaitingInput, awaitingInput := true }

/-- A machine that overflowed its stack, at 0x200. -/
def overflowed : State :=
  { State.reset.withFetchWord 16 0x2ABC with sp := 16, mode := .faulted, faultKind := .stackOverflow }

/-- `FaultedMachineIsFrozen`: a sequence of every event, after which a key has changed. -/
theorem witness_faulted_frozen : faulted.mode = .faulted ∧
    runEvents [.step, .tick, .setKey 3 true, .pixel 63 31] faulted = .next (faulted.setKey 3 true) :=
  ⟨rfl, rfl⟩

/-- `EveryInstructionKeepsWhatItDoesNotWrite` and `PcMovesByTwoUnlessTheInstructionSkipsWaitsOrJumps`: one instruction of
each row of R24. -/
theorem witness_frame_and_pc :
    (exec (.ldVxByte 15 7) State.reset = .next (State.reset.writeV 15 7).advance ∧
      pcEffect (.ldVxByte 15 7) = .advance) ∧
    (exec (.seVxByte 0 0) State.reset = .next { State.reset with pc := 0x204 } ∧ pcEffect (.seVxByte 0 0) = .skip) ∧
    (exec (.ldVxK 0) State.reset = .next { State.reset with awaitingInput := true, mode := .awaitingInput } ∧
      pcEffect (.ldVxK 0) = .wait) ∧
    exec (.jp 0xFFF) State.reset = .next { State.reset with pc := 0xFFF } :=
  ⟨⟨rfl, rfl⟩, ⟨rfl, rfl⟩, ⟨rfl, rfl⟩, rfl⟩

/-- The memory clause of `EveryInstructionKeepsWhatItDoesNotWrite`: with I at the end of the address range, the address
just behind the bytes each form stores. -/
theorem witness_frame_memory :
    (∀ k, k < storedCount (.ldBVx 0) → wrapAddr 2 ≠ wrapAddr (indexed { State.reset with i := 0xFFFF } k)) ∧
    (∀ k, k < storedCount (.ldMemVx 15) → wrapAddr 15 ≠ wrapAddr (indexed { State.reset with i := 0xFFFF } k)) ∧
    storedCount (.ldVxMem 15) = 0 := by decide

/-- `StatusTellsWhatTheStepDid`, `StepsDoNotCountTimers`, `SetKeyIsTheOnlyWriterOfTheLatch`: steps that answer. -/
theorem witness_steps :
    Sys2Proof.Machine.step State.reset = .next { State.reset with pc := 0x202 } ∧
    Sys2Proof.Machine.step faulted = .next faulted ∧
    (nextOf (Sys2Proof.Machine.step waiting)).isSome = true ∧
    see 0x00EE State.reset (fun t => t) = some faulted ∧
    (3 : KeyIdx) ≠ 2 :=
  ⟨rfl, rfl, rfl, rfl, by decide⟩

/-- `StackFaultsAreTheOnlyFaults`: both bounds, and a step into Faulted. -/
theorem witness_stack_faults : ({ State.reset with sp := 16 } : State).sp.val = 16 ∧ State.reset.sp.val = 0 ∧
    State.reset.mode ≠ .faulted ∧ exec (.ret 0) State.reset = .next (State.reset.raiseFault .stackUnderflow) ∧
    (State.reset.raiseFault .stackUnderflow).mode = .faulted :=
  ⟨rfl, rfl, by decide, rfl, rfl⟩

/-- `InvariantIsKeptByEveryStep` and the second clause of `ModesChangeOnlyAsTheTableSays`: a waiting machine satisfies
the invariant. -/
theorem witness_inv_waiting : Inv waiting :=
  ⟨by decide, by decide, by decide, fun _ => ⟨5, rfl⟩, (fun h => nomatch h), (fun h => nomatch h)⟩

/-- The same with a machine that faulted at the upper bound of SP. -/
theorem witness_inv_overflowed : Inv overflowed :=
  ⟨by decide, by decide, by decide, (fun h => nomatch h), fun _ => ⟨rfl, 0xABC, rfl⟩, (fun h => nomatch h)⟩

/-- The same with a machine that faulted at the lower bound of SP. -/
theorem witness_inv_faulted : Inv faulted :=
  ⟨by decide, by decide, by decide, (fun h => nomatch h), (fun h => nomatch h), fun _ => ⟨rfl, 0, rfl⟩⟩

/-- `ModesChangeOnlyAsTheTableSays`: a step in each mode; in AwaitingInput with and without a key. -/
theorem witness_modes : State.reset.mode = .running ∧ waiting.mode = .awaitingInput ∧ faulted.mode = .faulted ∧
    Sys2Proof.Machine.step waiting = .next waiting ∧ (∀ k : KeyIdx, waiting.key[k] = false) ∧
    (waiting.setKey 15 true).key[(15 : KeyIdx)] = true ∧
    (nextOf (Sys2Proof.Machine.step (waiting.setKey 15 true))).map (fun t => t.mode) = some .running :=
  ⟨rfl, rfl, rfl, rfl, by decide, rfl, rfl⟩

/-- `InvariantIsKeptByEverySchedule`: from the waiting machine, a schedule that answers. -/
theorem witness_schedule :
    (nextOf (runEvents [.step, .tick, .setKey 0 true, .step] waiting)).map (fun t => (t.mode, t.pc)) =
      some (.running, 0x202) := by decide

/-- `InvariantHoldsAfterConstruction`, `ConstructionLoadsFontAndImage`: the empty image and the largest. -/
theorem witness_construct : construct Config.font [] = .ok State.reset ∧
    0x200 + (List.replicate 0xE00 (0xFF : Byte)).length ≤ 0x1000 ∧ (List.replicate 0xE00 (0xFF : Byte)).length = 3584 :=
  ⟨rfl, by rw [List.length_replicate], List.length_replicate ..⟩

/-- `ConstructionLoadsFontAndImage`: addresses at the bounds of the two zero ranges, for an image of one byte. -/
theorem witness_construct_ranges : (0x50 ≤ 0x50 ∧ 0x50 < 0x200) ∧ (0x50 ≤ 0x1FF ∧ 0x1FF < 0x200) ∧
    (0x200 + [(0xFF : Byte)].length ≤ 0x201 ∧ 0x201 < 0x1000) ∧ 0x200 + [(0xFF : Byte)].length ≤ 0xFFF := by decide

/-- `ImageTooLargeIsRefused` and the refusal in `ConstructionLoadsFontAndImage`: one byte too many. -/
theorem witness_too_large : 3584 < (List.replicate 3585 (0xFF : Byte)).length ∧
    0x1000 < 0x200 + (List.replicate 3585 (0xFF : Byte)).length := by
  rw [List.length_replicate]; decide

/-- `ResetLeavesTheStatedValues`: the bounds of its range of zero bytes. -/
theorem witness_reset_range : (0x50 ≤ 0x50 ∧ 0x50 < 0x1000) ∧ (0x50 ≤ 0xFFF ∧ 0xFFF < 0x1000) := by decide

/-- Two memories written in different orders. -/
def memA : Memory := Memory.writeAt (Memory.writeAt [] 0x300 7) 0xFFF 9
def memB : Memory := Memory.writeAt (Memory.writeAt [] 0xFFF 9) 0x300 7

/-- `CanonicalMemoriesThatReadAlikeAreEqual` -/
theorem witness_canonical : Memory.wf memA ∧ Memory.wf memB ∧
    ∀ a, a < 4096 → Memory.readAt memA a = Memory.readAt memB a :=
  ⟨by decide, by decide, fun _ _ => by rw [show memA = memB by decide]⟩

/-- `RetPopsTheReturnAddress`, `CallPushesTheNextAddressOrOverflows`, `RetReturnsBehindItsCall`: SP at both bounds. -/
theorem witness_stack_bounds :
    ({ State.reset with sp := 1 } : State).sp.val = (0 : Fin 16).val + 1 ∧
    ({ State.reset with sp := 16 } : State).sp.val = (15 : Fin 16).val + 1 ∧
    State.reset.sp.val = (0 : Fin 16).val ∧ ({ State.reset with sp := 15 } : State).sp.val = (15 : Fin 16).val ∧
    ({ State.reset with sp := 16 } : State).sp.val = 16 ∧ (14 : Fin 16) ≠ 15 ∧
    ({ State.reset with sp := 15 } : State).sp.val < 16 ∧
    (∃ t, exec (.call 0xABC) { State.reset with sp := 15 } = .next t ∧ t.stack = t.stack ∧ t.sp = t.sp) :=
  ⟨rfl, rfl, rfl, rfl, rfl, by decide, by decide, _, rfl, rfl, rfl⟩

/-- `JpSetsPcToTheAddress`: a jump to itself. -/
theorem witness_jp_self : State.reset.pc.toNat = (0x200 : Addr).toNat := by decide

/-- `ComparingSkips`: equal and unequal, with an immediate and with registers. -/
theorem witness_skips : (regs [(15, 0xFF)]).readV 15 = 0xFF ∧ (regs [(15, 0xFF)]).readV 15 ≠ 0xFE ∧
    (regs [(15, 0xFF)]).readV 3 = (regs [(15, 0xFF)]).readV 4 ∧
    (regs [(15, 0xFF)]).readV 15 ≠ (regs [(15, 0xFF)]).readV 4 := by decide

/-- `AddSubSubnResultAndFlag`, `ShrShlResultAndFlag`, and the frames of the register results: a destination that is not
VF, sums of 255 and 256, equal and unequal operands. -/
theorem witness_alu : (14 : RegIdx) ≠ flagReg ∧ (14 : RegIdx) ∉ [(13 : RegIdx), flagReg] ∧
    ¬ ((0xFF : Byte).toNat + (0 : Byte).toNat > 255) ∧ (0xFF : Byte).toNat + (1 : Byte).toNat > 255 ∧
    (7 : Byte).toNat ≥ (7 : Byte).toNat ∧ ¬ ((7 : Byte).toNat ≥ (8 : Byte).toNat) := by decide

/-- A state with the glyph of digit 0 at I, drawn at (63, 31), and the pixel it hits there set. -/
def drawing : State := { pixels [(63, 31)] (regs [(1, 63), (2, 31)]) with i := 0 }

/-- `DrwXorsTheSpriteIntoTheFrameBuffer`: a collision in the far corner; and no collision on a blank buffer. -/
theorem witness_drw : (drawing.pixelAt 63 31 = true ∧
      spriteCovers drawing (drawing.readV 1) (drawing.readV 2) 5 63 31 = true) ∧
    (∀ (px : Fin 64) (py : Fin 32), spriteCovers State.reset 0 0 5 px py = true → State.reset.pixelAt px py = false) :=
  ⟨by decide, fun px py _ => by
    simp [State.pixelAt, FrameBuffer.pixel, State.reset]⟩

/-- `DrwFlagIsSetExactlyByAnErasure`: a draw that answers. -/
theorem witness_drw_flag : (nextOf (exec (.drwVxVyN 1 2 5) drawing)).map (fun t =>
    (t.readV flagReg, t.pixelAt 63 31)) = some (1, false) := by decide

/-- `DrwTwiceRestoresTheFrameBuffer`: the coordinates are not VF and both draws answer. -/
theorem witness_drw_twice : (1 : RegIdx) ≠ flagReg ∧ (2 : RegIdx) ≠ flagReg ∧
    ∃ t u, exec (.drwVxVyN 1 2 5) drawing = .next t ∧ exec (.drwVxVyN 1 2 5) t = .next u :=
  ⟨by decide, by decide, _, _, rfl, rfl⟩

/-- `DrwOfABlankSpriteOnlyClearsVfAndRaisesTheSignal`: no rows, and fifteen rows of zero bytes. -/
theorem witness_drw_blank : (∀ row, row < (0 : Fin 16).val → State.reset.memRead (State.reset.i.toNat + row) = 0) ∧
    (∀ row, row < (15 : Fin 16).val →
      ({ State.reset with i := 0x300 } : State).memRead (({ State.reset with i := 0x300 } : State).i.toNat + row) = 0) := by
  constructor <;> decide

/-- `KeySkipsTestTheLatch`: the last key, numbered 15 and 255, down and up; a number just above 15, and 15. -/
theorem witness_key_skips : ((regs [(2, 0xFF)]).readV 2).toNat % 16 = (15 : KeyIdx).val ∧
    (keys [15] (regs [(2, 0xFF)])).key[(15 : KeyIdx)] = true ∧ (regs [(2, 0xFF)]).key[(15 : KeyIdx)] = false ∧
    15 < (16 : Byte).toNat ∧ (15 : Byte).toNat ≤ 15 := by decide

/-- `KeyWaitTakesTheLowestKeyOrWaits`: only the last key down; and none. -/
theorem witness_key_wait : (keys [15] State.reset).key[(15 : KeyIdx)] = true ∧
    (∀ j : KeyIdx, j < 15 → (keys [15] State.reset).key[j] = false) ∧
    (∀ k : KeyIdx, State.reset.key[k] = false) := by decide

/-- `KeyWaitHoldsUntilAKeyIsDown` -/
theorem witness_key_wait_holds : waiting.mode ≠ .faulted ∧ classify waiting.fetchWord = .op (.ldVxK 5) ∧
    (∀ k : KeyIdx, waiting.key[k] = false) := by decide

/-- `LdBStoresThreeDecimalDigits`, `BlockStoreWritesRegistersUpToX`, `BlockLoadReadsRegistersUpToX`: I at the end of
memory, and an address outside the stored bytes just behind them; registers at the bounds. -/
theorem witness_store_frame :
    (3 % 4096 ≠ (0xFFFF#16).toNat % 4096 ∧ 3 % 4096 ≠ ((0xFFFF#16).toNat + 1) % 4096 ∧
      3 % 4096 ≠ ((0xFFFF#16).toNat + 2) % 4096) ∧
    (∀ r : RegIdx, r ≤ 15 → 15 % 4096 ≠ ((0xFFFF#16).toNat + r.val) % 4096) ∧
    ((15 : RegIdx) ≤ 15 ∧ (0 : RegIdx) ≤ 0 ∧ (0 : RegIdx) < 1) := by decide

/-- `BlockLoadUndoesBlockStore`: I at the end of memory; the state in between is the one after the store. -/
theorem witness_block_round_trip :
    ∃ t w, exec (.ldMemVx 15) { State.reset with i := 0xFFFF } = .next t ∧ t.mem = t.mem ∧ t.i = 0xFFFF ∧
      exec (.ldVxMem 15) t = .next w :=
  ⟨_, _, rfl, rfl, rfl, rfl⟩

/-- `StoredBytesAreTheNextWordFetched`: two registers just behind the instruction, and across the end of memory. -/
theorem witness_self_modifying : 1 ≤ (1 : RegIdx).val ∧
    (0x202#16).toNat % 4096 = (State.reset.pc.toNat + 2) % 4096 ∧
    (0x1FFF#16).toNat % 4096 = ((0x0FFD#16).toNat + 2) % 4096 ∧
    (∃ t, exec (.ldMemVx 1) { State.reset with i := 0x202 } = .next t) :=
  ⟨by decide, by decide, by decide, _, rfl⟩

/-- `TickCountsBothTimersDown`: running, with timers at 255 and 0; and faulted. -/
theorem witness_tick : ({ State.reset with dt := 255 } : State).mode ≠ .faulted ∧ faulted.mode = .faulted := by decide

/-- `FrameIsABurstOfStepsAndOneTick`: a frame that faults, one that a key wait ends, and one of no steps. -/
theorem witness_frame : burst 3 (State.reset.withFetchWord 16 0x00EE) = .next (faulted, .fault) ∧
    burst 3 waiting = .next (waiting, .awaitingInput) ∧ burst 0 waiting = .next (waiting, .normal) :=
  ⟨rfl, rfl, rfl⟩

/-- `StepsDoNotReadStOrTheSignals`: two states that differ in all three, one of which steps. -/
theorem witness_same_but_unread : SameButUnread waiting { waiting with st := 255, drawReady := true, awaitingInput := false } ∧
    Sys2Proof.Machine.step waiting = .next waiting := ⟨rfl, rfl⟩

/-- `HighAddressBitsAreUnobservable`: two states that differ in I, PC and a return address. -/
theorem witness_same_low12 : SameLow12 State.reset
    { State.reset with i := 0xF000, pc := 0x1200, stack := State.reset.stack.set 15 0x3000 } ∧
    Sys2Proof.Machine.step State.reset = .next { State.reset with pc := 0x202 } :=
  ⟨⟨rfl, by unfold Low12; decide, by unfold Low12; decide, by unfold Low12; decide⟩, rfl⟩

/-- `KeyChangesCommuteWithOtherSteps`: an instruction that does not read the latch, which steps. -/
theorem witness_keys_commute :
    (∀ i, classify (State.reset.withFetchWord 16 0x1ABC).fetchWord = .op i → readsLatch i = false) ∧
    (∃ t, Sys2Proof.Machine.step (State.reset.withFetchWord 16 0x1ABC) = .next t) :=
  ⟨fun i h => by
    rw [show classify (State.reset.withFetchWord 16 0x1ABC).fetchWord = .op (.jp 0xABC) by decide] at h
    cases h; rfl, _, rfl⟩

end Sys2Proof.Tests
end

section
/-! PROOFS. The Address family (`41_address.md`): the jump and the call. -/

namespace Sys2Proof.Machine

/-! ### The meanings of JP and CALL -/

theorem exec_jp (nnn : Addr) (s : State) : exec (.jp nnn) s = .next (s.jumpTo (addrOperand nnn)) := rfl

theorem exec_call (nnn : Addr) (s : State) : exec (.call nnn) s = execCall nnn s := rfl

theorem statusAfter_jp (nnn : Addr) (s : State) : statusAfter (.jp nnn) s = .normal := rfl

theorem statusAfter_call_of_room (nnn : Addr) {s : State} (h : s.sp.val < 16) :
    statusAfter (.call nnn) s = .normal := if_neg h.ne

theorem statusAfter_call_of_full (nnn : Addr) {s : State} (h : s.sp.val = 16) :
    statusAfter (.call nnn) s = .fault := if_pos h

/-- Zero extension keeps the number: a jump target is nnn itself. -/
@[simp] theorem toNat_addrOperand (nnn : Addr) : (addrOperand nnn).toNat = nnn.toNat :=
  BitVec.toNat_setWidth_of_le (by decide)

/-! ### The frames of a jump and of a change of the return stack -/

theorem keepsRegsBut_of_v_eq {s t : State} (h : t.v = s.v) (changed : List RegIdx) : KeepsRegsBut changed s t :=
  fun r _ => State.readV_congr h r

theorem keepsAllBut_jumpTo (s : State) (a : Word) (changed : List Part) : KeepsAllBut changed s (s.jumpTo a) := by
  constructor <;> intros <;> simp

/-- A change of the return stack and PC leaves every part but the stack. -/
theorem keepsAllBut_stack_pc (s : State) (stack : Vector Word 16) (sp : Fin 17) (pc : Word) :
    KeepsAllBut [.stack] s { s with stack := stack, sp := sp, pc := pc } where
  stack h := absurd (List.mem_singleton.2 rfl) h
  mem _ := State.memRead_congr rfl
  mode _ := ⟨rfl, rfl⟩
  i _ := rfl
  dt _ := rfl
  st _ := rfl
  fb _ := rfl
  key _ := rfl
  drawReady _ := rfl
  awaitingInput _ := rfl
  rndCount _ := rfl

/-- A jump to the address PC already holds changes nothing. -/
theorem State.jumpTo_self {s : State} {a : Word} (h : s.pc = a) : s.jumpTo a = s := by
  subst h; rfl

/-! ### The obligations -/

/-- Settles O30: JP is the one PC write, and that write is idle when PC already holds nnn. -/
theorem jpSetsPcToTheAddress : Obligations.JpSetsPcToTheAddress := by
  intro nnn s
  refine ⟨_, exec_jp nnn s, statusAfter_jp nnn s, by simp, keepsRegsBut_of_v_eq rfl _, keepsAllBut_jumpTo s _ _, ?_⟩
  intro hpc
  exact State.jumpTo_self (BitVec.eq_of_toNat_eq (by simpa using hpc))

/-- Settles O28: below capacity CALL is a push of PC + 2 and a jump, at capacity it is the fault entry alone (R111). -/
theorem callPushesTheNextAddressOrOverflows : Obligations.CallPushesTheNextAddressOrOverflows := by
  constructor
  · intro nnn s k hk
    have room : s.sp.val < 16 := by omega
    refine ⟨_, (exec_call nnn s).trans (execCall_of_room nnn room), statusAfter_call_of_room nnn room,
      ?pushed, ?others, by simp [hk], by simp, keepsRegsBut_of_v_eq rfl _, keepsAllBut_stack_pc s _ _ _⟩
    case pushed => simp [hk, BitVec.toNat_add]
    case others =>
      intro j hj
      have : s.sp.val ≠ j.val := fun h => hj (Fin.ext (h.symm.trans hk))
      simp [Vector.getElem_set_ne, this]
  · intro nnn s full
    exact ⟨_, (exec_call nnn s).trans (execCall_of_full nnn full), statusAfter_call_of_full nnn full,
      rfl, rfl, rfl, rfl, rfl⟩

end Sys2Proof.Machine
end

section
/-! PROOFS. The Reg pair family (`43_reg_pair.md`): the copy and the bitwise operations. -/

namespace Sys2Proof.Machine

/-! ### The meanings of LD, OR, AND and XOR on two registers -/

theorem exec_ldVxVy (x y : RegIdx) (s : State) : exec (.ldVxVy x y) s = .next (s.writeV x (s.readV y)).advance := rfl

theorem exec_orVxVy (x y : RegIdx) (s : State) :
    exec (.orVxVy x y) s = .next (s.writeV x (s.readV x ||| s.readV y)).advance := rfl

theorem exec_andVxVy (x y : RegIdx) (s : State) :
    exec (.andVxVy x y) s = .next (s.writeV x (s.readV x &&& s.readV y)).advance := rfl

theorem exec_xorVxVy (x y : RegIdx) (s : State) :
    exec (.xorVxVy x y) s = .next (s.writeV x (s.readV x ^^^ s.readV y)).advance := rfl

/-! ### One register written, then PC + 2 -/

theorem readV_writeV_advance_self (s : State) (x : RegIdx) (b : Byte) : (s.writeV x b).advance.readV x = b := by
  rw [State.readV_advance, State.readV_writeV, if_pos rfl]

theorem keepsRegsBut_writeV_advance (s : State) (x : RegIdx) (b : Byte) :
    KeepsRegsBut [x] s (s.writeV x b).advance := by
  intro r hr
  rw [State.readV_advance, State.readV_writeV, if_neg (List.mem_singleton.not.1 hr)]

theorem keepsAllBut_writeV_advance (s : State) (x : RegIdx) (b : Byte) (changed : List Part) :
    KeepsAllBut changed s (s.writeV x b).advance := by
  constructor <;> intros <;> simp

/-- What a register write that ends in PC + 2 leaves behind, whatever the register and the byte. -/
theorem writeV_advance_frame (s : State) (x : RegIdx) (b : Byte) :
    (s.writeV x b).advance.pc = s.pc + 2 ∧ KeepsRegsBut [x] s (s.writeV x b).advance ∧
      KeepsAllBut [] s (s.writeV x b).advance :=
  ⟨rfl, keepsRegsBut_writeV_advance s x b, keepsAllBut_writeV_advance s x b []⟩

/-! ### The obligation -/

/-- Settles O35: each of the four is one register write and PC + 2, so they share the frame of that write; the bits of
the result are those of the operation on bytes. -/
theorem copyAndLogicWriteOnlyTheDestination : Obligations.CopyAndLogicWriteOnlyTheDestination := by
  intro x y s
  refine ⟨?ld, ?or, ?and, ?xor⟩
  case ld => exact ⟨_, exec_ldVxVy x y s, rfl, readV_writeV_advance_self s x _, writeV_advance_frame s x _⟩
  case or =>
    refine ⟨_, exec_orVxVy x y s, rfl, fun k => ?_, writeV_advance_frame s x _⟩
    rw [readV_writeV_advance_self, BitVec.getLsbD_or]
  case and =>
    refine ⟨_, exec_andVxVy x y s, rfl, fun k => ?_, writeV_advance_frame s x _⟩
    rw [readV_writeV_advance_self, BitVec.getLsbD_and]
  case xor =>
    refine ⟨_, exec_xorVxVy x y s, rfl, fun k => ?_, writeV_advance_frame s x _⟩
    rw [readV_writeV_advance_self, BitVec.getLsbD_xor]

end Sys2Proof.Machine
end

section
/-! PROOFS. The Keyed single-register family (`45_keyed_single_reg.md`): the timer copies and the digit store. -/

namespace Sys2Proof.Machine

/-! ### The meanings of the timer copies and of LD B -/

theorem exec_ldVxDt (x : RegIdx) (s : State) : exec (.ldVxDt x) s = .next (s.writeV x s.dt).advance := rfl

theorem exec_ldDtVx (x : RegIdx) (s : State) : exec (.ldDtVx x) s = .next (s.writeDt (s.readV x)).advance := rfl

theorem exec_ldStVx (x : RegIdx) (s : State) : exec (.ldStVx x) s = .next (s.writeSt (s.readV x)).advance := rfl

theorem exec_ldBVx (x : RegIdx) (s : State) : exec (.ldBVx x) s = .next (storeDigits (s.readV x) s).advance := rfl

/-! ### The frames of a timer write and of a change of memory -/

theorem keepsAllBut_writeDt_advance (s : State) (b : Byte) : KeepsAllBut [.dt] s (s.writeDt b).advance := by
  constructor <;> simp

theorem keepsAllBut_writeSt_advance (s : State) (b : Byte) : KeepsAllBut [.st] s (s.writeSt b).advance := by
  constructor <;> simp

/-- A change of memory and PC leaves every part but memory. -/
theorem keepsAllBut_mem_pc (s : State) (mem : Memory) (pc : Word) :
    KeepsAllBut [.mem] s { s with mem := mem, pc := pc } := by
  constructor <;> simp

/-- The digit store that ends in PC + 2 leaves every part but memory. -/
theorem keepsAllBut_storeDigits_advance (b : Byte) (s : State) : KeepsAllBut [.mem] s (storeDigits b s).advance :=
  keepsAllBut_mem_pc s (storeDigits b s).mem (s.pc + 2)

/-! ### The decimal digits of a byte as numbers -/

theorem toNat_hundreds (b : Byte) : (hundreds b).toNat = b.toNat / 100 := by
  rw [hundreds, BitVec.toNat_ofNat]; omega

theorem toNat_tens (b : Byte) : (tens b).toNat = b.toNat / 10 % 10 := by
  rw [tens, BitVec.toNat_ofNat]; omega

theorem toNat_ones (b : Byte) : (ones b).toNat = b.toNat % 10 := by
  rw [ones, BitVec.toNat_ofNat]; omega

/-! ### Where the digit store puts each digit -/

/-- Different small offsets stay different at the end of memory, so a later digit overwrites no earlier one. -/
theorem wrapAddr_add_ne {j k : Nat} (i : Nat) (hj : j < 16) (hk : k < 16) (h : j ≠ k) :
    wrapAddr (i + j) ≠ wrapAddr (i + k) := (wrapAddr_add_inj hj hk).not.2 h

theorem memRead_storeDigits_hundreds (b : Byte) (s : State) : (storeDigits b s).memRead s.i.toNat = hundreds b := by
  have h2 := wrapAddr_add_ne (j := 0) (k := 2) s.i.toNat (by decide) (by decide) (by decide)
  have h1 := wrapAddr_add_ne (j := 0) (k := 1) s.i.toNat (by decide) (by decide) (by decide)
  rw [Nat.add_zero] at h1 h2
  rw [memRead_storeDigits, if_neg h2, if_neg h1, if_pos rfl]

theorem memRead_storeDigits_tens (b : Byte) (s : State) : (storeDigits b s).memRead (s.i.toNat + 1) = tens b := by
  have h2 := wrapAddr_add_ne (j := 1) (k := 2) s.i.toNat (by decide) (by decide) (by decide)
  rw [memRead_storeDigits, if_neg h2, if_pos rfl]

theorem memRead_storeDigits_ones (b : Byte) (s : State) : (storeDigits b s).memRead (s.i.toNat + 2) = ones b := by
  rw [memRead_storeDigits, if_pos rfl]

theorem memRead_storeDigits_other (b : Byte) (s : State) {a : Nat} (h0 : wrapAddr a ≠ wrapAddr s.i.toNat)
    (h1 : wrapAddr a ≠ wrapAddr (s.i.toNat + 1)) (h2 : wrapAddr a ≠ wrapAddr (s.i.toNat + 2)) :
    (storeDigits b s).memRead a = s.memRead a := by
  rw [memRead_storeDigits, if_neg h2, if_neg h1, if_neg h0]

/-! ### The obligations -/

/-- Settles O46: the copy from DT is one register write, the copies to DT and ST are one timer write, each then PC + 2
(R162, R164, R165). -/
theorem timerMovesCopy : Obligations.TimerMovesCopy := by
  refine ⟨fun x s => ?fromDt, fun x s => ?toDt, fun x s => ?toSt⟩
  case fromDt => exact ⟨_, exec_ldVxDt x s, rfl, readV_writeV_advance_self s x _, writeV_advance_frame s x _⟩
  case toDt =>
    exact ⟨_, exec_ldDtVx x s, rfl, by simp, by simp, keepsRegsBut_of_v_eq rfl _, keepsAllBut_writeDt_advance s _⟩
  case toSt =>
    exact ⟨_, exec_ldStVx x s, rfl, by simp, by simp, keepsRegsBut_of_v_eq rfl _, keepsAllBut_writeSt_advance s _⟩

/-- Settles O48: the three addresses are different mod 4096, so each digit reads back where it was stored, and PC + 2
touches no memory (R168). -/
theorem ldBStoresThreeDecimalDigits : Obligations.LdBStoresThreeDecimalDigits := by
  intro x s
  refine ⟨_, exec_ldBVx x s, rfl, ?hundreds, ?tens, ?ones, ?others, rfl, keepsRegsBut_of_v_eq rfl _,
    keepsAllBut_storeDigits_advance _ s⟩
  case hundreds => rw [State.memRead_advance, memRead_storeDigits_hundreds, toNat_hundreds]
  case tens => rw [State.memRead_advance, memRead_storeDigits_tens, toNat_tens]
  case ones => rw [State.memRead_advance, memRead_storeDigits_ones, toNat_ones]
  case others =>
    intro a h0 h1 h2
    rw [State.memRead_advance]
    exact memRead_storeDigits_other _ s h0 h1 h2

end Sys2Proof.Machine
end

section
/-! PROOFS. Events and errors (`60_exceptions.md`): the keyboard latch and the size of the image. -/

namespace Sys2Proof.Machine

/-! ### The keyboard latch: what `set_key` writes -/

theorem State.getElem_key_setKey_self (s : State) (k : KeyIdx) (down : Bool) : (s.setKey k down).key[k] = down := by
  rw [State.setKey_key]
  exact Vector.getElem_set_self k.isLt

theorem State.getElem_key_setKey_of_ne (s : State) {j k : KeyIdx} (down : Bool) (h : j ≠ k) :
    (s.setKey k down).key[j] = s.key[j] := by
  rw [State.setKey_key]
  exact Vector.getElem_set_ne k.isLt j.isLt (Fin.val_ne_of_ne h.symm)

/-! ### The keyboard latch: no step and no tick writes it -/

theorem storeRegs_key (x : RegIdx) (s : State) : (storeRegs x s).key = s.key := by
  rw [storeRegs_rest]

theorem loadRegs_key (x : RegIdx) (s : State) : (loadRegs x s).key = s.key := by
  rw [loadRegs_rest]

/-- No instruction writes the latch. The cases of their own are the branching meanings, the block copies, which are folds
over registers, and the skips, whose PC depends on a condition; every other instruction is a chain of field updates. -/
theorem exec_key {i : Instr} {s t : State} (h : exec i s = .next t) : t.key = s.key := by
  cases i
  case call nnn => rcases execCall_cases h with ⟨-, rfl⟩ | ⟨-, rfl⟩ <;> rfl
  case ret n2 => rcases execRet_cases h with ⟨-, rfl⟩ | ⟨-, rfl⟩ <;> rfl
  case ldVxK x => rcases execLdVxK_cases h with ⟨k, -, rfl⟩ | ⟨-, rfl⟩ <;> rfl
  case ldMemVx x => cases h; exact storeRegs_key x s
  case ldVxMem x => cases h; exact loadRegs_key x s
  case seVxByte | sneVxByte | seVxVy | sneVxVy | skpVx | sknpVx => cases h; exact State.skipIf_key s _
  all_goals cases h; rfl

theorem step_key {s t : State} (h : step s = .next t) : t.key = s.key := by
  rcases step_cases h with ⟨-, rfl⟩ | ⟨-, i, -, hi⟩ | ⟨-, w, -, rfl⟩
  · rfl
  · exact exec_key hi
  · exact State.advance_key s

theorem State.tick_key (s : State) : s.tick.key = s.key := by
  unfold State.tick
  split <;> rfl

/-! ### Construction: when it is refused, and where the image is -/

theorem construct_of_too_large (font : Vector Byte 80) {image : List Byte} (h : Config.progMax < image.length) :
    construct font image = .error .imageTooLarge := if_pos h

/-- Construction answers exactly for an image that fits, with the font and then the image written over a reset machine
(R250, R252). -/
theorem construct_eq_ok {font : Vector Byte 80} {image : List Byte} {s : State} :
    construct font image = .ok s ↔ image.length ≤ Config.progMax ∧ s = { State.reset with
      mem := Memory.writeBytes (Memory.writeBytes [] Config.fontBase font.toList) Config.progBase image } := by
  unfold construct
  split
  · next tooLarge => simp [Nat.not_le.2 tooLarge]
  · next fits => simp [Nat.le_of_not_lt fits, eq_comm]

/-- Byte k of the image is at 0x200 + k: an image that fits ends inside the 4096 bytes, so no address of it wraps. -/
theorem memRead_of_construct {font : Vector Byte 80} {image : List Byte} {s : State}
    (h : construct font image = .ok s) {k : Nat} (hk : k < image.length) :
    s.memRead (Config.progBase + k) = image[k] := by
  obtain ⟨fits, rfl⟩ := construct_eq_ok.1 h
  have largest_fills : Config.progBase + Config.progMax = Config.memSize := rfl
  have inside : wrapAddr (Config.progBase + k) = Config.progBase + k := Nat.mod_eq_of_lt (by omega)
  simp [State.memRead, inside, Memory.readAt_writeBytes, hk]

/-! ### The obligations -/

/-- Settles O55: `set_key` replaces one entry of the latch, and neither the meaning of an instruction nor a tick writes
it (R217). -/
theorem setKeyIsTheOnlyWriterOfTheLatch : Obligations.SetKeyIsTheOnlyWriterOfTheLatch := by
  refine ⟨fun s k down => ⟨?self, ?others, rfl⟩, fun _ _ => step_key, State.tick_key⟩
  case self => exact s.getElem_key_setKey_self k down
  case others => exact fun j hj => s.getElem_key_setKey_of_ne down hj

/-- Settles O23: every image longer than `PROG_MAX` is refused, and one of exactly `PROG_MAX` bytes still fits, so each of
its bytes is in place (R206). -/
theorem imageTooLargeIsRefused : Obligations.ImageTooLargeIsRefused := by
  constructor
  · exact fun font image tooLarge => construct_of_too_large font tooLarge
  · intro font image full
    have constructed := construct_eq_ok (font := font).2 ⟨full.le, rfl⟩
    exact ⟨_, constructed, fun k => memRead_of_construct constructed k.isLt⟩

end Sys2Proof.Machine
end

section
/-! PROOFS. The encoding (`30_encoding.md`): the decoder and the encoder are inverse, the Unknown words, and the opcode
table. -/

namespace Sys2Proof

/-! ### Decoding the word of an instruction -/

/-- Encoding and then decoding gives a well-formed instruction back. The cases go by family: the sub-classifier that the
first nibble selects reads the operand fields of the format the instruction was written in. -/
theorem classifyWith_encode {strict : Bool} {i : Instr} (wf : i.wellFormedWith strict = true) :
    classifyWith strict (encode i) = .op i := by
  cases i
  case cls n2 | ret n2 =>
    have n2Ok : ctrlNibbleOk strict n2 = true := wf
    simp [encode, classifyWith, classifyControl, n2Ok]
  case jp | call | ldIAddr | jpV0Addr => simp [encode, classifyWith]
  case seVxByte | sneVxByte | ldVxByte | addVxByte | rndVxByte => simp [encode, classifyWith, fieldX]
  case seVxVy => simp [encode, classifyWith, classifySeReg, fieldX, fieldY]
  case sneVxVy => simp [encode, classifyWith, classifySneReg, fieldX, fieldY]
  case drwVxVyN => simp [encode, classifyWith, fieldX, fieldY, fieldN]
  case skpVx | sknpVx => simp [encode, classifyWith, classifyKeyed, fieldX]
  case ldVxVy | orVxVy | andVxVy | xorVxVy | addVxVy | subVxVy | subnVxVy | shrVx | shlVx =>
    simp [encode, classifyWith, classifyAlu, fieldX, fieldY]
  case ldVxDt | ldVxK | ldDtVx | ldStVx | addIVx | ldFVx | ldBVx | ldMemVx | ldVxMem =>
    simp [encode, classifyWith, classifyMisc, fieldX]

/-- On this hardware every instruction is well-formed, so it has a word. -/
theorem wellFormed_of_not_strict (i : Instr) : i.wellFormedWith false = true := by cases i <;> rfl

theorem classify_encode (i : Instr) : classify (encode i) = .op i := classifyWith_encode (wellFormed_of_not_strict i)

/-! ### A word from the fields that select its operation -/

@[simp] theorem nibbleOfIdx_fieldX (w : Word) : nibbleOfIdx (fieldX w) = nibble2 w := nibbleOfIdx_idxOfNibble _

@[simp] theorem nibbleOfIdx_fieldY (w : Word) : nibbleOfIdx (fieldY w) = nibble3 w := nibbleOfIdx_idxOfNibble _

@[simp] theorem nibbleOfIdx_fieldN (w : Word) : nibbleOfIdx (fieldN w) = nibble4 w := nibbleOfIdx_idxOfNibble _

section fields
variable {w : Word} {n1 n4 : Nibble} {kk : Byte}

theorem formatA_of_nibble1 (h1 : nibble1 w = n1) : formatA n1 (addrNnn w) = w := by rw [← h1, formatA_fields]

theorem formatI_of_nibble1 (h1 : nibble1 w = n1) : formatI n1 (nibble2 w) (byteKk w) = w := by rw [← h1, formatI_fields]

theorem formatI_of_byteKk (h1 : nibble1 w = n1) (hk : byteKk w = kk) : formatI n1 (nibble2 w) kk = w := by
  rw [← hk, formatI_of_nibble1 h1]

theorem formatR_of_nibble1 (h1 : nibble1 w = n1) : formatR n1 (nibble2 w) (nibble3 w) (nibble4 w) = w := by
  rw [← h1, formatR_nibbles]

theorem formatR_of_nibble4 (h1 : nibble1 w = n1) (h4 : nibble4 w = n4) :
    formatR n1 (nibble2 w) (nibble3 w) n4 = w := by rw [← h4, formatR_of_nibble1 h1]

theorem byteKk_of_nibbles {n3 : Nibble} (h3 : nibble3 w = n3) (h4 : nibble4 w = n4) : byteKk w = n3 ++ n4 := by
  rw [byteKk_eq_append, h3, h4]

end fields

/-! ### The instruction that each sub-classifier reads has the word it read -/

section inversion
variable {strict : Bool} {w : Word} {i : Instr}

theorem encode_of_classifyControl (h1 : nibble1 w = 0x0) (h : classifyControl strict w = .op i) :
    encode i = w ∧ i.wellFormedWith strict = true := by
  unfold classifyControl at h
  split at h
  case isFalse => cases h
  case isTrue fields =>
    obtain ⟨h3, n2Ok⟩ := fields
    split at h
    case h_3 => cases h
    all_goals
      next h4 =>
      cases h
      exact ⟨formatI_of_byteKk h1 (byteKk_of_nibbles h3 h4), n2Ok⟩

theorem encode_of_classifySeReg (h1 : nibble1 w = 0x5) (h : classifySeReg w = .op i) :
    encode i = w ∧ i.wellFormedWith strict = true := by
  unfold classifySeReg at h
  split at h
  case h_2 => cases h
  case h_1 h4 =>
    cases h
    exact ⟨by simpa [encode] using formatR_of_nibble4 h1 h4, rfl⟩

theorem encode_of_classifySneReg (h1 : nibble1 w = 0x9) (h : classifySneReg w = .op i) :
    encode i = w ∧ i.wellFormedWith strict = true := by
  unfold classifySneReg at h
  split at h
  case h_2 => cases h
  case h_1 h4 =>
    cases h
    exact ⟨by simpa [encode] using formatR_of_nibble4 h1 h4, rfl⟩

theorem encode_of_classifyAlu (h1 : nibble1 w = 0x8) (h : classifyAlu w = .op i) :
    encode i = w ∧ i.wellFormedWith strict = true := by
  unfold classifyAlu at h
  split at h
  case h_10 => cases h
  all_goals
    next h4 =>
    cases h
    exact ⟨by simpa [encode] using formatR_of_nibble4 h1 h4, rfl⟩

theorem encode_of_classifyKeyed (h1 : nibble1 w = 0xE) (h : classifyKeyed w = .op i) :
    encode i = w ∧ i.wellFormedWith strict = true := by
  unfold classifyKeyed at h
  split at h
  case h_3 => cases h
  all_goals
    next hk =>
    cases h
    exact ⟨by simpa [encode] using formatI_of_byteKk h1 hk, rfl⟩

theorem encode_of_classifyMisc (h1 : nibble1 w = 0xF) (h : classifyMisc w = .op i) :
    encode i = w ∧ i.wellFormedWith strict = true := by
  unfold classifyMisc at h
  split at h
  case h_10 => cases h
  all_goals
    next hk =>
    cases h
    exact ⟨by simpa [encode] using formatI_of_byteKk h1 hk, rfl⟩

/-- Decoding and then encoding gives the word back, with nothing dropped, and the instruction is well-formed. -/
theorem encode_of_classifyWith (h : classifyWith strict w = .op i) :
    encode i = w ∧ i.wellFormedWith strict = true := by
  unfold classifyWith at h
  split at h
  case h_1 h1 => exact encode_of_classifyControl h1 h
  case h_6 h1 => exact encode_of_classifySeReg h1 h
  case h_9 h1 => exact encode_of_classifyAlu h1 h
  case h_10 h1 => exact encode_of_classifySneReg h1 h
  case h_14 h1 => cases h; exact ⟨by simpa [encode] using formatR_of_nibble1 h1, rfl⟩
  case h_15 h1 => exact encode_of_classifyKeyed h1 h
  case h_16 h0 h1 h2 h3 h4 h5 h6 h7 h8 h9 h10 h11 h12 h13 h14 =>
    exact encode_of_classifyMisc (nibble_eq_fifteen h0 h1 h2 h3 h4 h5 h6 h7 h8 h9 h10 h11 h12 h13 h14) h
  case h_2 | h_3 | h_11 | h_12 =>
    next h1 =>
    cases h
    exact ⟨formatA_of_nibble1 h1, rfl⟩
  case h_4 | h_5 | h_7 | h_8 | h_13 =>
    next h1 =>
    cases h
    exact ⟨by simpa [encode] using formatI_of_nibble1 h1, rfl⟩

end inversion

/-- The decoder reads an instruction from exactly the words the encoder writes for it. -/
theorem classify_eq_op_iff {w : Word} {i : Instr} : classify w = .op i ↔ encode i = w := by
  constructor
  · exact fun h => (encode_of_classifyWith h).1
  · rintro rfl
    exact classify_encode i

/-! ### The fields of a word as numbers -/

theorem nibble1_eq_iff {w : Word} {n : Nibble} : nibble1 w = n ↔ w.toNat / 4096 = n.toNat := by
  rw [← nibble1_toNat, BitVec.toNat_inj]

theorem nibble2_eq_iff {w : Word} {n : Nibble} : nibble2 w = n ↔ w.toNat / 256 % 16 = n.toNat := by
  rw [← nibble2_toNat, BitVec.toNat_inj]

theorem nibble3_eq_iff {w : Word} {n : Nibble} : nibble3 w = n ↔ w.toNat / 16 % 16 = n.toNat := by
  rw [← nibble3_toNat, BitVec.toNat_inj]

theorem nibble4_eq_iff {w : Word} {n : Nibble} : nibble4 w = n ↔ w.toNat % 16 = n.toNat := by
  rw [← nibble4_toNat, BitVec.toNat_inj]

theorem byteKk_eq_iff {w : Word} {b : Byte} : byteKk w = b ↔ w.toNat % 256 = b.toNat := by
  rw [← byteKk_toNat, BitVec.toNat_inj]

/-! ### The words each sub-classifier does not know -/

section unknown
variable {strict : Bool} {w u : Word}

theorem classifyControl_eq_unknown : classifyControl strict w = .unknown u ↔ w = u ∧
    ¬ (nibble3 w = 0xE ∧ ctrlNibbleOk strict (nibble2 w) = true ∧ nibble4 w ∈ [0x0, 0xE]) := by
  unfold classifyControl
  split
  case isFalse h => simp_all
  case isTrue h => split <;> simp_all

theorem classifySeReg_eq_unknown : classifySeReg w = .unknown u ↔ w = u ∧ nibble4 w ≠ 0x0 := by
  unfold classifySeReg
  split <;> simp_all

theorem classifySneReg_eq_unknown : classifySneReg w = .unknown u ↔ w = u ∧ nibble4 w ≠ 0x0 := by
  unfold classifySneReg
  split <;> simp_all

theorem classifyAlu_eq_unknown : classifyAlu w = .unknown u ↔ w = u ∧
    nibble4 w ∉ [0x0, 0x1, 0x2, 0x3, 0x4, 0x5, 0x6, 0x7, 0xE] := by
  unfold classifyAlu
  split <;> simp_all

theorem classifyKeyed_eq_unknown : classifyKeyed w = .unknown u ↔ w = u ∧ byteKk w ∉ [0x9E, 0xA1] := by
  unfold classifyKeyed
  split <;> simp_all

theorem classifyMisc_eq_unknown : classifyMisc w = .unknown u ↔ w = u ∧
    byteKk w ∉ [0x07, 0x0A, 0x15, 0x18, 0x1E, 0x29, 0x33, 0x55, 0x65] := by
  unfold classifyMisc
  split <;> simp_all

/-- The two levels together, on this hardware. -/
theorem classify_eq_unknown : classify w = .unknown u ↔ w = u ∧
    ((nibble1 w = 0x0 ∧ ¬ (nibble3 w = 0xE ∧ nibble4 w ∈ [0x0, 0xE])) ∨
     (nibble1 w = 0x5 ∧ nibble4 w ≠ 0x0) ∨ (nibble1 w = 0x9 ∧ nibble4 w ≠ 0x0) ∨
     (nibble1 w = 0x8 ∧ nibble4 w ∉ [0x0, 0x1, 0x2, 0x3, 0x4, 0x5, 0x6, 0x7, 0xE]) ∨
     (nibble1 w = 0xE ∧ byteKk w ∉ [0x9E, 0xA1]) ∨
     (nibble1 w = 0xF ∧ byteKk w ∉ [0x07, 0x0A, 0x15, 0x18, 0x1E, 0x29, 0x33, 0x55, 0x65])) := by
  unfold classify classifyWith
  split
  case h_1 h1 => simp [h1, classifyControl_eq_unknown, ctrlNibbleOk, Config.ctrlN2Strict]
  case h_6 h1 => simp [h1, classifySeReg_eq_unknown]
  case h_9 h1 => simp [h1, classifyAlu_eq_unknown]
  case h_10 h1 => simp [h1, classifySneReg_eq_unknown]
  case h_15 h1 => simp [h1, classifyKeyed_eq_unknown]
  case h_16 h0 h1 h2 h3 h4 h5 h6 h7 h8 h9 h10 h11 h12 h13 h14 =>
    have h15 := nibble_eq_fifteen h0 h1 h2 h3 h4 h5 h6 h7 h8 h9 h10 h11 h12 h13 h14
    simp [h15, classifyMisc_eq_unknown]
  all_goals
    next h1 => simp [h1]

end unknown

/-- The named and the unnamed values of n4 in the ALU family. -/
theorem unnamed_alu_iff {n : Nat} (h : n < 16) : n ∉ [0x0, 0x1, 0x2, 0x3, 0x4, 0x5, 0x6, 0x7, 0xE] ↔
    n ∈ [0x8, 0x9, 0xA, 0xB, 0xC, 0xD, 0xF] := by
  have each : ∀ m < 16, m ∉ [0x0, 0x1, 0x2, 0x3, 0x4, 0x5, 0x6, 0x7, 0xE] ↔
      m ∈ [0x8, 0x9, 0xA, 0xB, 0xC, 0xD, 0xF] := by decide
  exact each n h

/-! ### The Control family -/

theorem ctrlNibbleOk_iff {strict : Bool} {n2 : Nibble} : ctrlNibbleOk strict n2 = true ↔ (strict = true → n2 = 0) := by
  cases strict <;> simp [ctrlNibbleOk]

section control
variable {strict : Bool} {w : Word}

theorem classifyWith_of_nibble1_zero (h1 : nibble1 w = 0x0) : classifyWith strict w = classifyControl strict w := by
  simp only [classifyWith, show nibble1 w = 0#4 from h1]

theorem classifyControl_eq_cls (h3 : nibble3 w = 0xE) (n2Ok : ctrlNibbleOk strict (nibble2 w) = true)
    (h4 : nibble4 w = 0x0) : classifyControl strict w = .op (.cls (nibble2 w)) := by
  simp [classifyControl, h3, n2Ok, h4]

theorem classifyControl_eq_ret (h3 : nibble3 w = 0xE) (n2Ok : ctrlNibbleOk strict (nibble2 w) = true)
    (h4 : nibble4 w = 0xE) : classifyControl strict w = .op (.ret (nibble2 w)) := by
  simp [classifyControl, h3, n2Ok, h4]

end control

/-! ### The rows of the opcode table -/

section rows
open Laws.TableRow

/-- The word of an instruction is one of the words of its row. -/
theorem opcodeRow_accepts_encode (i : Instr) : (opcodeRow i).accepts (encode i) = true := by
  have masked : Statement i := by
    cases i
    exacts [cls _, ret _, jp _, call _, seVxByte _ _, sneVxByte _ _, seVxVy _ _, ldVxByte _ _, addVxByte _ _,
      ldVxVy _ _, orVxVy _ _, andVxVy _ _, xorVxVy _ _, addVxVy _ _, subVxVy _ _, shrVx _ _, subnVxVy _ _,
      shlVx _ _, sneVxVy _ _, ldIAddr _, jpV0Addr _, rndVxByte _ _, drwVxVyN _ _ _, skpVx _, sknpVx _,
      ldVxDt _, ldVxK _, ldDtVx _, ldStVx _, addIVx _, ldFVx _, ldBVx _, ldMemVx _, ldVxMem _]
  exact beq_iff_eq.2 masked

end rows

theorem opcodeRow_mem (i : Instr) : opcodeRow i ∈ opcodeRows := by
  cases i <;> simp [opcodeRow, opcodeRows, rowSamples]

/-- Two rows that both accept a word agree on the bits both masks cover. -/
theorem OpcodeRow.value_agrees {r q : OpcodeRow} {w : Word} (hr : r.accepts w = true) (hq : q.accepts w = true) :
    r.value &&& q.mask = q.value &&& r.mask := by
  have masked : w &&& r.mask = r.value ∧ w &&& q.mask = q.value := ⟨beq_iff_eq.1 hr, beq_iff_eq.1 hq⟩
  rw [← masked.1, ← masked.2, BitVec.and_assoc, BitVec.and_assoc, BitVec.and_comm q.mask]

/-- No word is accepted by two rows: any two rows disagree on a bit that both masks cover. -/
theorem opcodeRows_pairwise_disjoint :
    List.Pairwise (fun r q => ∀ w : Word, ¬ (r.accepts w = true ∧ q.accepts w = true)) opcodeRows := by
  have disagree : List.Pairwise (fun r q => r.value &&& q.mask ≠ q.value &&& r.mask) opcodeRows := by decide
  exact disagree.imp fun differ w both => differ (OpcodeRow.value_agrees both.1 both.2)

/-- Two rows of the table that accept the same word are the same row. -/
theorem opcodeRows_eq_of_accepts {r q : OpcodeRow} (hr : r ∈ opcodeRows) (hq : q ∈ opcodeRows) {w : Word}
    (accepts_r : r.accepts w = true) (accepts_q : q.accepts w = true) : r = q := by
  by_contra differ
  have symmetric : Std.Symm fun r q : OpcodeRow => ∀ w : Word, ¬ (r.accepts w = true ∧ q.accepts w = true) :=
    ⟨fun _ _ h w both => h w both.symm⟩
  exact opcodeRows_pairwise_disjoint.forall hr hq differ w ⟨accepts_r, accepts_q⟩

/-! ### The Unknown words as numbers -/

/-- Settles O4: the classifier's two levels, with each selecting field read as a number (R81). -/
theorem unknownWordsAreExactlyTheListed : Obligations.UnknownWordsAreExactlyTheListed := by
  intro w u
  rw [classify_eq_unknown, ← unnamed_alu_iff (Nat.mod_lt _ (by decide)), eq_comm]
  simp [nibble1_eq_iff, nibble3_eq_iff, nibble4_eq_iff, byteKk_eq_iff]

/-! ### A field that the mask covers is the row's -/

section masks
variable {w m v : Word}

theorem toNat_div_4096_of_and (h : w &&& m = v) (whole : nibble1 m = BitVec.allOnes 4) :
    w.toNat / 4096 = v.toNat / 4096 := by
  have field : nibble1 (w &&& m) = nibble1 w &&& nibble1 m := BitVec.extractLsb'_and
  rw [← nibble1_toNat, ← nibble1_toNat, ← h, field, whole, BitVec.and_allOnes]

theorem toNat_div_16_mod_16_of_and (h : w &&& m = v) (whole : nibble3 m = BitVec.allOnes 4) :
    w.toNat / 16 % 16 = v.toNat / 16 % 16 := by
  have field : nibble3 (w &&& m) = nibble3 w &&& nibble3 m := BitVec.extractLsb'_and
  rw [← nibble3_toNat, ← nibble3_toNat, ← h, field, whole, BitVec.and_allOnes]

theorem toNat_mod_16_of_and (h : w &&& m = v) (whole : nibble4 m = BitVec.allOnes 4) : w.toNat % 16 = v.toNat % 16 := by
  have field : nibble4 (w &&& m) = nibble4 w &&& nibble4 m := BitVec.extractLsb'_and
  rw [← nibble4_toNat, ← nibble4_toNat, ← h, field, whole, BitVec.and_allOnes]

theorem toNat_mod_256_of_and (h : w &&& m = v) (whole : byteKk m = BitVec.allOnes 8) :
    w.toNat % 256 = v.toNat % 256 := by
  have field : byteKk (w &&& m) = byteKk w &&& byteKk m := BitVec.extractLsb'_and
  rw [← byteKk_toNat, ← byteKk_toNat, ← h, field, whole, BitVec.and_allOnes]

end masks

/-- A word that a row accepts is not Unknown: the mask covers the fields that select the operation. -/
theorem classify_ne_unknown_of_accepts {row : Instr} {w : Word} (h : (opcodeRow row).accepts w = true) (u : Word) :
    classify w ≠ .unknown u := by
  rw [ne_eq, unknownWordsAreExactlyTheListed]
  cases row <;> simp only [opcodeRow, OpcodeRow.accepts, beq_iff_eq] at h
  case cls | ret =>
    have h1 := toNat_div_4096_of_and h (by decide)
    have h3 := toNat_div_16_mod_16_of_and h (by decide)
    have h4 := toNat_mod_16_of_and h (by decide)
    simp [h1, h3, h4]
  case seVxVy | sneVxVy | ldVxVy | orVxVy | andVxVy | xorVxVy | addVxVy | subVxVy | subnVxVy | shrVx | shlVx =>
    have h1 := toNat_div_4096_of_and h (by decide)
    have h4 := toNat_mod_16_of_and h (by decide)
    simp [h1, h4]
  case skpVx | sknpVx | ldVxDt | ldVxK | ldDtVx | ldStVx | addIVx | ldFVx | ldBVx | ldMemVx | ldVxMem =>
    have h1 := toNat_div_4096_of_and h (by decide)
    have hk := toNat_mod_256_of_and h (by decide)
    simp [h1, hk]
  all_goals
    have h1 := toNat_div_4096_of_and h (by decide)
    simp [h1]

/-! ### The other obligations -/

/-- Settles O2: the fields of a format are the operands it was built from. -/
theorem decodeOfEncodeIsTheInstruction : Obligations.DecodeOfEncodeIsTheInstruction :=
  fun _ _ wf => classifyWith_encode wf

/-- Settles O3: a word is the format of its fields, and the selecting fields are those the classifier tested. -/
theorem encodeOfDecodeIsTheWord : Obligations.EncodeOfDecodeIsTheWord :=
  fun _ _ _ read => encode_of_classifyWith read

/-- Settles O6: with n1 = 0 the word is a Control word, and the three clauses are the branches of its classifier. -/
theorem controlWordsForBothParameterValues : Obligations.ControlWordsForBothParameterValues := by
  intro strict w h1
  rw [classifyWith_of_nibble1_zero (nibble1_eq_iff.2 h1)]
  have n2Ok : ctrlNibbleOk strict (nibble2 w) = true ↔ (strict = true → w.toNat / 256 % 16 = 0) := by
    simp [ctrlNibbleOk_iff, nibble2_eq_iff]
  refine ⟨?cls, ?ret, ?unknown⟩
  case cls =>
    rintro ⟨h3, h4, h2⟩
    exact classifyControl_eq_cls (nibble3_eq_iff.2 h3) (n2Ok.2 h2) (nibble4_eq_iff.2 h4)
  case ret =>
    rintro ⟨h3, h4, h2⟩
    exact classifyControl_eq_ret (nibble3_eq_iff.2 h3) (n2Ok.2 h2) (nibble4_eq_iff.2 h4)
  case unknown =>
    intro other
    refine classifyControl_eq_unknown.2 ⟨rfl, fun ⟨h3, h2, h4⟩ => other ⟨nibble3_eq_iff.1 h3, ?_, n2Ok.1 h2⟩⟩
    simpa [nibble4_eq_iff] using h4

/-- Settles O5: the rows are disjoint by inspection of their masks, so a row that accepts a word is the row of the
instruction the word decodes to. -/
theorem opcodeTableIsDisjointAndTheDecoderFollowsIt : Obligations.OpcodeTableIsDisjointAndTheDecoderFollowsIt := by
  refine ⟨rfl, opcodeRows_pairwise_disjoint, fun w i read => ⟨opcodeRow_mem i, ?_⟩, fun w r hr accepts => ?_⟩
  · rw [← classify_eq_op_iff.1 read]
    exact opcodeRow_accepts_encode i
  · obtain ⟨row, -, rfl⟩ := List.mem_map.1 hr
    cases read : classify w with
    | unknown u => exact absurd read (classify_ne_unknown_of_accepts accepts u)
    | op i =>
      have accepts_i := opcodeRow_accepts_encode i
      rw [classify_eq_op_iff.1 read] at accepts_i
      exact ⟨i, rfl, opcodeRows_eq_of_accepts (opcodeRow_mem i) hr accepts_i accepts⟩

/-- Settles O1, by running the classifier on the sixteen words. -/
theorem sampleWordsDecode : Obligations.SampleWordsDecode := by
  unfold Obligations.SampleWordsDecode
  decide

end Sys2Proof
end

section
/-! PROOFS. The frame of every instruction and what it does to PC (`10_state.md` sections 1 to 6,
`20_memory.md` section 5). -/

namespace Sys2Proof.Machine

/-! ### Frames of the operations an instruction ends in -/

theorem KeepsAllBut.mono {c d : List Part} {s t : State} (h : KeepsAllBut c s t) (sub : c ⊆ d) :
    KeepsAllBut d s t where
  i out := h.i (mt (@sub _) out)
  stack out := h.stack (mt (@sub _) out)
  dt out := h.dt (mt (@sub _) out)
  st out := h.st (mt (@sub _) out)
  mem out := h.mem (mt (@sub _) out)
  fb out := h.fb (mt (@sub _) out)
  key out := h.key (mt (@sub _) out)
  drawReady out := h.drawReady (mt (@sub _) out)
  awaitingInput out := h.awaitingInput (mt (@sub _) out)
  mode out := h.mode (mt (@sub _) out)
  rndCount out := h.rndCount (mt (@sub _) out)

/-- A skip is one jump, whatever its condition. -/
theorem State.skipIf_eq (s : State) (c : Bool) : s.skipIf c = s.jumpTo (if c then s.pc + 4 else s.pc + 2) := by
  cases c <;> rfl

/-- A change of the general registers and PC leaves every part. -/
theorem keepsAllBut_v_pc (s : State) (v : Vector Byte 16) (pc : Word) :
    KeepsAllBut [] s { s with v := v, pc := pc } := by
  constructor <;> simp [State.memRead]

theorem keepsAllBut_skipIf (s : State) (c : Bool) : KeepsAllBut [] s (s.skipIf c) := by
  rw [State.skipIf_eq]
  exact keepsAllBut_v_pc s _ _

theorem keepsAllBut_writeI_advance (s : State) (a : Word) : KeepsAllBut [.i] s (s.writeI a).advance := by
  constructor <;> simp

theorem keepsAllBut_writeFb_advance (s : State) (f : FrameBuffer) : KeepsAllBut [.fb] s (s.writeFb f).advance := by
  constructor <;> simp

theorem keepsAllBut_rndWith_countDraw (r : Byte) (x : RegIdx) (kk : Byte) (s : State) :
    KeepsAllBut [.rndCount] s (rndWith r x kk s).countDraw := by
  constructor <;> simp [rndWith]

/-- The end of DRW: frame buffer, flag, signal, PC. -/
theorem keepsAllBut_draw (s : State) (f : FrameBuffer) (flag : Byte) :
    KeepsAllBut [.fb, .drawReady] s (((s.writeFb f).writeFlag flag).signalDraw).advance := by
  constructor <;> simp

theorem keepsAllBut_raiseFault (s : State) (kind : FaultKind) : KeepsAllBut [.mode] s (s.raiseFault kind) := by
  constructor <;> simp

theorem keepsAllBut_wait (s : State) (v : Vector Byte 16) (pc : Word) (waiting : Bool) (m : Mode) :
    KeepsAllBut [.awaitingInput, .mode] s { s with v := v, pc := pc, awaitingInput := waiting, mode := m } := by
  constructor <;> simp [State.memRead]

theorem keepsRegsBut_writeResultThenFlag_advance (s : State) (x : RegIdx) (a b : Byte) :
    KeepsRegsBut [x, flagReg] s (s.writeResultThenFlag x a b).advance := by
  intro r hr
  simp only [List.mem_cons, List.not_mem_nil, or_false, not_or] at hr
  simp [hr.1, hr.2]

theorem keepsRegsBut_loadRegs_advance (s : State) (x : RegIdx) :
    KeepsRegsBut (regsUpTo x) s (loadRegs x s).advance := by
  intro r hr
  rw [State.readV_advance, readV_loadRegs, if_neg (mem_regsUpTo.not.1 hr)]

/-! ### The frame of every instruction -/

/-- The parts an instruction is not listed to change stay as they were. The cases group the instructions by
what they write. -/
theorem exec_keepsAllBut {i : Instr} {s t : State} (h : exec i s = .next t) : KeepsAllBut (changedParts i) s t := by
  cases i
  case cls => cases h; exact keepsAllBut_writeFb_advance s _
  case ret =>
    rcases execRet_cases h with ⟨_, rfl⟩ | ⟨-, rfl⟩
    · exact (keepsAllBut_stack_pc s _ _ _).mono (by simp [changedParts])
    · exact (keepsAllBut_raiseFault s _).mono (by simp [changedParts])
  case call =>
    rcases execCall_cases h with ⟨_, rfl⟩ | ⟨-, rfl⟩
    · exact (keepsAllBut_stack_pc s _ _ _).mono (by simp [changedParts])
    · exact (keepsAllBut_raiseFault s _).mono (by simp [changedParts])
  case ldVxK =>
    rcases execLdVxK_cases h with ⟨k, -, rfl⟩ | ⟨-, rfl⟩ <;> exact keepsAllBut_wait s _ _ _ _
  case ldIAddr | addIVx | ldFVx => cases h; exact keepsAllBut_writeI_advance s _
  case rndVxByte => cases h; exact keepsAllBut_rndWith_countDraw _ _ _ s
  case drwVxVyN => cases h; exact keepsAllBut_draw s _ _
  case ldDtVx => cases h; exact keepsAllBut_writeDt_advance s _
  case ldStVx => cases h; exact keepsAllBut_writeSt_advance s _
  case ldBVx => cases h; exact keepsAllBut_storeDigits_advance _ s
  case ldMemVx => cases h; rw [storeRegs_rest]; exact keepsAllBut_mem_pc s _ _
  case ldVxMem => cases h; rw [loadRegs_rest]; exact keepsAllBut_v_pc s _ _
  case seVxByte | sneVxByte | seVxVy | sneVxVy | skpVx | sknpVx => cases h; exact keepsAllBut_skipIf s _
  all_goals cases h; exact keepsAllBut_v_pc s _ _

/-- The general registers an instruction is not listed to change stay as they were. -/
theorem exec_keepsRegsBut {i : Instr} {s t : State} (h : exec i s = .next t) : KeepsRegsBut (changedRegs i) s t := by
  cases i
  case ret => rcases execRet_cases h with ⟨_, rfl⟩ | ⟨-, rfl⟩ <;> exact keepsRegsBut_of_v_eq rfl _
  case call => rcases execCall_cases h with ⟨_, rfl⟩ | ⟨-, rfl⟩ <;> exact keepsRegsBut_of_v_eq rfl _
  case ldVxK x =>
    rcases execLdVxK_cases h with ⟨k, -, rfl⟩ | ⟨-, rfl⟩
    · exact keepsRegsBut_writeV_advance s x _
    · exact keepsRegsBut_of_v_eq rfl _
  case ldVxByte x _ | addVxByte x _ | rndVxByte x _ | ldVxVy x _ | orVxVy x _ | andVxVy x _ | xorVxVy x _ | ldVxDt x =>
    cases h; exact keepsRegsBut_writeV_advance s x _
  case addVxVy x _ | subVxVy x _ | shrVx x _ | subnVxVy x _ | shlVx x _ =>
    cases h; exact keepsRegsBut_writeResultThenFlag_advance s x _ _
  case drwVxVyN => cases h; exact keepsRegsBut_writeV_advance s flagReg _
  case ldVxMem x => cases h; exact keepsRegsBut_loadRegs_advance s x
  case ldMemVx x => cases h; exact keepsRegsBut_of_v_eq (by rw [State.advance_v, storeRegs_rest]) _
  case seVxByte | sneVxByte | seVxVy | sneVxVy | skpVx | sknpVx =>
    cases h; exact keepsRegsBut_of_v_eq (s.skipIf_v _) _
  all_goals cases h; exact keepsRegsBut_of_v_eq rfl _

/-- Every byte outside those an instruction stores at I, I + 1, .. reads as before. -/
theorem exec_memRead_other {i : Instr} {s t : State} (h : exec i s = .next t) {a : Nat}
    (outside : ∀ k, k < storedCount i → wrapAddr a ≠ wrapAddr (indexed s k)) : t.memRead a = s.memRead a := by
  cases i
  case ldBVx x =>
    cases h
    exact memRead_storeDigits_other _ s (outside 0 (by simp [storedCount])) (outside 1 (by simp [storedCount]))
      (outside 2 (by simp [storedCount]))
  case ldMemVx x =>
    cases h
    exact storeRegs_other x s a fun r hr => outside r.val (Nat.lt_succ_of_le hr)
  all_goals exact (exec_keepsAllBut h).mem (by simp [changedParts]) a

/-! ### What an instruction does to PC -/

theorem exec_pc_of_advance {i : Instr} {s t : State} (h : exec i s = .next t) (row : pcEffect i = .advance) :
    t.pc = s.pc + 2 := by
  cases i <;> simp only [pcEffect, reduceCtorEq] at row
  case ldMemVx => cases h; rw [State.advance_pc, storeRegs_rest]
  case ldVxMem => cases h; rw [State.advance_pc, loadRegs_rest]
  all_goals cases h; rfl

theorem exec_pc_of_skip {i : Instr} {s t : State} (h : exec i s = .next t) (row : pcEffect i = .skip) :
    t.pc = s.pc + 2 ∨ t.pc = s.pc + 4 := by
  have skip (c : Bool) : (s.skipIf c).pc = s.pc + 2 ∨ (s.skipIf c).pc = s.pc + 4 := by cases c <;> simp
  cases i <;> simp only [pcEffect, reduceCtorEq] at row
  all_goals cases h; exact skip _

theorem exec_pc_of_wait {i : Instr} {s t : State} (h : exec i s = .next t) (row : pcEffect i = .wait) :
    (t.pc = s.pc + 2 ∧ ∃ k : KeyIdx, s.key[k] = true) ∨ (t.pc = s.pc ∧ ∀ k : KeyIdx, s.key[k] = false) := by
  cases i <;> simp only [pcEffect, reduceCtorEq] at row
  rcases execLdVxK_cases h with ⟨k, found, rfl⟩ | ⟨none, rfl⟩
  · exact .inl ⟨rfl, k, (State.lowestKeyDown_eq_some.1 found).1⟩
  · exact .inr ⟨rfl, State.lowestKeyDown_eq_none.1 none⟩

/-! ### The obligations -/

/-- Settles O13: the frame of each instruction is that of the operation it ends in. -/
theorem everyInstructionKeepsWhatItDoesNotWrite : Obligations.EveryInstructionKeepsWhatItDoesNotWrite :=
  fun _ _ _ h => ⟨exec_keepsAllBut h, exec_keepsRegsBut h, fun _ outside => exec_memRead_other h outside⟩

/-- Settles O14, row by row of R24. -/
theorem pcMovesByTwoUnlessTheInstructionSkipsWaitsOrJumps :
    Obligations.PcMovesByTwoUnlessTheInstructionSkipsWaitsOrJumps :=
  fun _ _ _ h => ⟨exec_pc_of_advance h, exec_pc_of_skip h, exec_pc_of_wait h⟩

end Sys2Proof.Machine
end

section
/-! PROOFS. The step (`40_control.md` sections 1 and 2): fetch, dispatch, outputs, and that it always answers. -/

namespace Sys2Proof.Machine

/-! ### What a step is, by mode and word -/

theorem step_of_faulted {s : State} (h : s.mode = .faulted) : step s = .next s := if_pos h

theorem stepOutput_of_faulted {s : State} (h : s.mode = .faulted) : stepOutput s = ⟨.fault, .none⟩ := if_pos h

section dispatch
variable {s : State} (running : s.mode ≠ .faulted)
include running

theorem step_of_op {i : Instr} (read : classify s.fetchWord = .op i) : step s = exec i s := by
  rw [step, if_neg running, read, execClassified]

theorem stepOutput_of_op {i : Instr} (read : classify s.fetchWord = .op i) :
    stepOutput s = ⟨statusAfter i s, .none⟩ := by
  rw [stepOutput, if_neg running, read, classifiedOutput]

theorem step_of_unknown {w : Word} (read : classify s.fetchWord = .unknown w) : step s = .next s.advance := by
  rw [step, if_neg running, read, execClassified, execUnknown]

theorem stepOutput_of_unknown {w : Word} (read : classify s.fetchWord = .unknown w) :
    stepOutput s = ⟨.normal, .unknown w⟩ := by
  rw [stepOutput, if_neg running, read, classifiedOutput]

end dispatch

/-! ### Every event answers -/

theorem exec_answers (i : Instr) (s : State) : ∃ t, exec i s = .next t := by
  cases i
  case call nnn =>
    by_cases room : s.sp.val < 16
    · exact ⟨_, execCall_of_room nnn room⟩
    · exact ⟨_, execCall_of_full nnn (by omega)⟩
  case ret n2 =>
    by_cases entry : 0 < s.sp.val
    · exact ⟨_, execRet_of_entry entry⟩
    · exact ⟨_, execRet_of_empty (by omega)⟩
  case ldVxK x =>
    cases found : s.lowestKeyDown with
    | some k => exact ⟨_, execLdVxK_of_key x found⟩
    | none => exact ⟨_, execLdVxK_of_none x found⟩
  all_goals exact ⟨_, rfl⟩

theorem step_answers (s : State) : ∃ t, step s = .next t := by
  by_cases faulted : s.mode = .faulted
  · exact ⟨s, step_of_faulted faulted⟩
  · cases read : classify s.fetchWord with
    | op i => simpa only [step_of_op faulted read] using exec_answers i s
    | unknown w => exact ⟨_, step_of_unknown faulted read⟩

theorem applyEvent_answers (s : State) (e : HostEvent) : ∃ t, applyEvent s e = .next t := by
  cases e with
  | step => exact step_answers s
  | tick => exact ⟨_, rfl⟩
  | setKey k down => exact ⟨_, rfl⟩
  | pixel x y => exact ⟨_, rfl⟩

/-- A schedule is its first event and then the rest. -/
theorem runEvents_cons {e : HostEvent} {s t : State} (h : applyEvent s e = .next t) (es : List HostEvent) :
    runEvents (e :: es) s = runEvents es t := by
  rw [runEvents, h]

theorem runEvents_answers (es : List HostEvent) (s : State) : ∃ t, runEvents es s = .next t := by
  induction es generalizing s with
  | nil => exact ⟨s, rfl⟩
  | cons e rest ih =>
    obtain ⟨t, h⟩ := applyEvent_answers s e
    simpa only [runEvents_cons h] using ih t

/-- What every event keeps, every schedule keeps. -/
theorem runEvents_induction {P : State → Prop} (event : ∀ e s t, P s → applyEvent s e = .next t → P t)
    {es : List HostEvent} {s t : State} (start : P s) (h : runEvents es s = .next t) : P t := by
  induction es generalizing s with
  | nil => cases h; exact start
  | cons e rest ih =>
    obtain ⟨u, hu⟩ := applyEvent_answers s e
    rw [runEvents_cons hu] at h
    exact ih (event e s u start hu) h

/-! ### The status of an instruction -/

theorem statusAfter_eq_fault {i : Instr} {s : State} : statusAfter i s = .fault ↔
    ((∃ nnn, i = .call nnn) ∧ s.sp.val = 16) ∨ ((∃ n2, i = .ret n2) ∧ s.sp.val = 0) := by
  cases i <;> simp [statusAfter, ite_eq_iff]

theorem statusAfter_eq_drawReady {i : Instr} {s : State} :
    statusAfter i s = .drawReady ↔ ∃ x y n, i = .drwVxVyN x y n := by
  cases i <;> simp [statusAfter, ite_eq_iff]

theorem statusAfter_eq_awaitingInput {i : Instr} {s : State} :
    statusAfter i s = .awaitingInput ↔ (∃ x, i = .ldVxK x) ∧ ∀ k : KeyIdx, s.key[k] = false := by
  cases i <;> simp [statusAfter, ite_eq_iff, State.lowestKeyDown_eq_none, State.keyDown]

/-- From a mode other than Faulted an instruction enters Faulted exactly when its status is fault. -/
theorem exec_faulted_iff {i : Instr} {s t : State} (running : s.mode ≠ .faulted) (h : exec i s = .next t) :
    t.mode = .faulted ↔ statusAfter i s = .fault := by
  rw [statusAfter_eq_fault]
  rcases exec_mode_cases h with ⟨⟨x, rfl⟩, ⟨k, -, hm⟩ | ⟨-, hm⟩⟩ | ⟨⟨nnn, rfl⟩, full, hm⟩ | ⟨⟨n2, rfl⟩, empty, hm⟩ |
    ⟨-, notFull, notEmpty, hm⟩
  · simp [hm]
  · simp [hm]
  · simp [hm, full]
  · simp [hm, empty]
  · simp only [hm, running, false_iff, not_or]
    exact ⟨fun ⟨⟨nnn, hi⟩, full⟩ => notFull nnn hi full, fun ⟨⟨n2, hi⟩, empty⟩ => notEmpty n2 hi empty⟩

/-! ### The timers -/

theorem exec_dt {i : Instr} {s t : State} (h : exec i s = .next t) :
    t.dt = s.dt ∨ ∃ x, i = .ldDtVx x ∧ t.dt = s.readV x := by
  cases i
  case ldDtVx x => cases h; exact .inr ⟨x, rfl, rfl⟩
  all_goals exact .inl ((exec_keepsAllBut h).dt (by simp [changedParts]))

theorem exec_st {i : Instr} {s t : State} (h : exec i s = .next t) :
    t.st = s.st ∨ ∃ x, i = .ldStVx x ∧ t.st = s.readV x := by
  cases i
  case ldStVx x => cases h; exact .inr ⟨x, rfl, rfl⟩
  all_goals exact .inl ((exec_keepsAllBut h).st (by simp [changedParts]))

/-! ### A word placed at PC -/

theorem tableWord_of_lt {w : Nat} (h : w < 65536) : tableWord 16 w = BitVec.ofNat 16 w := by
  rw [tableWord, Nat.mod_eq_of_lt (by omega)]

theorem wrapAddr_succ_ne (a : Nat) : wrapAddr a ≠ wrapAddr (a + 1) := by
  simp only [wrapAddr, Config.memSize]
  omega

theorem fetchWord_withFetchWord (s : State) (nbits w : Nat) :
    (s.withFetchWord nbits w).fetchWord = tableWord nbits w := by
  simp only [State.fetchWord, State.withFetchWord, State.memRead_memWrite, State.memWrite_pc,
    if_neg (wrapAddr_succ_ne _), if_true]
  exact wordOfBytes_split _

theorem memRead_withFetchWord_other (s : State) (nbits w : Nat) {a : Nat} (first : wrapAddr a ≠ wrapAddr s.pc.toNat)
    (second : wrapAddr a ≠ wrapAddr (s.pc.toNat + 1)) : (s.withFetchWord nbits w).memRead a = s.memRead a := by
  simp only [State.withFetchWord, State.memRead_memWrite, if_neg first, if_neg second]

theorem keepsAllBut_withFetchWord (s : State) (nbits w : Nat) : KeepsAllBut [.mem] s (s.withFetchWord nbits w) :=
  keepsAllBut_mem_pc s (s.withFetchWord nbits w).mem s.pc

/-- What the table's decoder reads of a word is what the classifier reads. -/
theorem decodeTableWord_eq_some {nbits w : Nat} {i : Instr} :
    decodeTableWord nbits w = some i ↔ classify (tableWord nbits w) = .op i := by
  rw [decodeTableWord, decodeBytes, wordOfBytes_split]
  cases classify (tableWord nbits w) <;> simp

/-! ### The obligations -/

/-- Settles O7: the two bytes at PC are the fetched word. -/
theorem stepRunsTheDecodedInstruction : Obligations.StepRunsTheDecodedInstruction :=
  fun _ _ running read => ⟨step_of_op running read, stepOutput_of_op running read⟩

/-- Settles O8: a memory access takes its address mod 4096. -/
theorem fetchReadsTheHighByteFirstAndWraps : Obligations.FetchReadsTheHighByteFirstAndWraps :=
  fun _ => wordOfBytes_toNat _ _

/-- Settles O9: the two bytes lie at different addresses, so both read back, and they are the bytes of the word. -/
theorem placedWordIsFetchedAndRun : Obligations.PlacedWordIsFetchedAndRun := by
  intro s w small
  refine ⟨?fetched, fun a => memRead_withFetchWord_other s 16 w, keepsAllBut_withFetchWord s 16 w,
    keepsRegsBut_of_v_eq rfl _, fun i running read => ?run⟩
  case fetched => rw [fetchWord_withFetchWord, tableWord_of_lt small]
  case run =>
    refine step_of_op (s := s.withFetchWord 16 w) running ?_
    rw [fetchWord_withFetchWord]
    exact decodeTableWord_eq_some.1 read

/-- Settles O10 (R104). -/
theorem unknownWordOnlyAdvancesPc : Obligations.UnknownWordOnlyAdvancesPc :=
  fun _ _ running read => ⟨step_of_unknown running read, stepOutput_of_unknown running read⟩

/-- Settles O12: every meaning answers a next state, so every step and every schedule does. -/
theorem everyEventHasANextState : Obligations.EveryEventHasANextState :=
  ⟨exec_answers, step_answers, runEvents_answers⟩

/-- Settles O15: in Faulted the outputs are fixed, and otherwise they are those of the word that was read. -/
theorem statusTellsWhatTheStepDid : Obligations.StatusTellsWhatTheStepDid := by
  intro s t h
  rcases step_cases h with ⟨faulted, rfl⟩ | ⟨running, i, read, hi⟩ | ⟨running, w, read, rfl⟩
  · simp [stepOutput_of_faulted faulted, faulted]
  · simp [stepOutput_of_op running read, running, read, exec_faulted_iff running hi, statusAfter_eq_drawReady,
      statusAfter_eq_awaitingInput]
  · simp [stepOutput_of_unknown running read, running, read]

/-- Settles O54: a step writes a timer only as the load of that timer. -/
theorem stepsDoNotCountTimers : Obligations.StepsDoNotCountTimers := by
  intro s t h
  rcases step_cases h with ⟨-, rfl⟩ | ⟨-, i, read, hi⟩ | ⟨-, w, -, rfl⟩
  · exact ⟨.inl rfl, .inl rfl⟩
  · simp only [read, Classified.op.injEq]
    exact ⟨exec_dt hi, exec_st hi⟩
  · exact ⟨.inl rfl, .inl rfl⟩

end Sys2Proof.Machine
end

section
/-! PROOFS. Faults, modes and the invariant (`60_exceptions.md` sections 1, 2 and 5). -/

namespace Sys2Proof.Machine

/-! ### In Faulted -/

theorem State.tick_of_faulted {s : State} (h : s.mode = .faulted) : s.tick = s := if_pos h

theorem State.tick_of_not_faulted {s : State} (h : s.mode ≠ .faulted) : s.tick = { s with
    dt := countDown s.dt, st := countDown s.st, drawReady := false, awaitingInput := false } := if_neg h

theorem State.tick_mode (s : State) : s.tick.mode = s.mode := by
  unfold State.tick
  split <;> rfl

/-- An event in Faulted changes at most the latch (R103, R204, R210). -/
theorem applyEvent_of_faulted {s t : State} {e : HostEvent} (faulted : s.mode = .faulted)
    (h : applyEvent s e = .next t) : t = { s with key := t.key } := by
  cases e with
  | step => cases (step_of_faulted faulted).symm.trans h; rfl
  | tick => cases h; rw [State.tick_of_faulted faulted]
  | setKey k down => cases h; rfl
  | pixel x y => cases h; rfl

theorem runEvents_of_faulted {s t : State} {es : List HostEvent} (faulted : s.mode = .faulted)
    (h : runEvents es s = .next t) : t = { s with key := t.key } := by
  refine runEvents_induction (P := fun u => u = { s with key := u.key }) ?_ rfl h
  intro e u v hu hv
  have still : u.mode = .faulted := by rw [hu]; exact faulted
  have kept := applyEvent_of_faulted still hv
  rw [hu] at kept
  exact kept

/-! ### The mode after a step -/

/-- From Running an instruction enters AwaitingInput exactly when its status says so. -/
theorem exec_awaitingInput_iff {i : Instr} {s t : State} (running : s.mode = .running) (h : exec i s = .next t) :
    t.mode = .awaitingInput ↔ statusAfter i s = .awaitingInput := by
  rw [statusAfter_eq_awaitingInput]
  rcases exec_mode_cases h with ⟨⟨x, rfl⟩, ⟨k, found, hm⟩ | ⟨none, hm⟩⟩ | ⟨⟨nnn, rfl⟩, -, hm⟩ | ⟨⟨n2, rfl⟩, -, hm⟩ |
    ⟨other, -, -, hm⟩
  · have down := (State.lowestKeyDown_eq_some.1 found).1
    simp only [hm, reduceCtorEq, false_iff, not_and, not_forall]
    exact fun _ => ⟨k, by simpa [State.keyDown] using down⟩
  · simpa [hm, State.keyDown] using State.lowestKeyDown_eq_none.1 none
  · simp [hm]
  · simp [hm]
  · simp [hm, running, other]

/-- A key wait goes to Running when a key is down and to AwaitingInput when none is. -/
theorem exec_ldVxK_mode {x : RegIdx} {s t : State} (h : exec (.ldVxK x) s = .next t) :
    ((∃ k : KeyIdx, s.key[k] = true) → t.mode = .running) ∧
    ((∀ k : KeyIdx, s.key[k] = false) → t.mode = .awaitingInput) := by
  rcases execLdVxK_cases h with ⟨k, found, rfl⟩ | ⟨none, rfl⟩
  · have down : s.key[k] = true := (State.lowestKeyDown_eq_some.1 found).1
    exact ⟨fun _ => rfl, fun up => by simp [up k] at down⟩
  · have up := State.lowestKeyDown_eq_none.1 none
    exact ⟨fun ⟨k, down⟩ => absurd ((up k).symm.trans down) Bool.false_ne_true, fun _ => rfl⟩

/-! ### Memory stays canonical -/

theorem exec_wf {i : Instr} {s t : State} (wf : Memory.wf s.mem) (h : exec i s = .next t) : Memory.wf t.mem := by
  cases i
  case call => rcases execCall_cases h with ⟨_, rfl⟩ | ⟨-, rfl⟩ <;> exact wf
  case ret => rcases execRet_cases h with ⟨_, rfl⟩ | ⟨-, rfl⟩ <;> exact wf
  case ldVxK => rcases execLdVxK_cases h with ⟨k, -, rfl⟩ | ⟨-, rfl⟩ <;> exact wf
  case ldBVx => cases h; exact wf_storeDigits _ wf
  case ldMemVx x => cases h; exact wf_storeRegs x wf
  case ldVxMem => cases h; rw [loadRegs_rest]; exact wf
  case seVxByte | sneVxByte | seVxVy | sneVxVy | skpVx | sknpVx => cases h; rw [State.skipIf_mem]; exact wf
  all_goals cases h; exact wf

/-! ### The invariant -/

/-- In Running with no fault recorded and the signal down, the invariant is the canonical form of memory. -/
theorem Inv.of_running {s : State} (wf : Memory.wf s.mem) (running : s.mode = .running) (noFault : s.faultKind = .none)
    (quiet : s.awaitingInput = false) : Inv s where
  memWf := wf
  faulted_iff := by simp [running, noFault]
  awaiting_mode := by simp [quiet]
  wait_word := by simp [running]
  overflow := by simp [noFault]
  underflow := by simp [noFault]

theorem Inv.noFault {s : State} (inv : Inv s) (h : s.mode ≠ .faulted) : s.faultKind = .none := by
  by_contra recorded
  exact h (inv.faulted_iff.2 recorded)

/-- A machine of the invariant that is not Faulted and does not stand at a key wait is in Running, with the
signal down. -/
theorem Inv.running_of_no_wait {s : State} (inv : Inv s) (notFaulted : s.mode ≠ .faulted)
    (noWait : ∀ x, classify s.fetchWord ≠ .op (.ldVxK x)) : s.mode = .running ∧ s.awaitingInput = false := by
  have notAwaiting : s.mode ≠ .awaitingInput := fun h => (inv.wait_word h).elim noWait
  have running : s.mode = .running := by
    cases hm : s.mode with
    | running => rfl
    | awaitingInput => exact absurd hm notAwaiting
    | faulted => exact absurd hm notFaulted
  exact ⟨running, by simpa [running] using mt inv.awaiting_mode⟩

/-- A machine that waits for a key stands at the key wait. -/
theorem Inv.wait {s : State} (inv : Inv s) (notFaulted : s.mode ≠ .faulted) {x : RegIdx}
    (read : classify s.fetchWord = .op (.ldVxK x)) :
    Inv { s with awaitingInput := true, mode := .awaitingInput } where
  memWf := inv.memWf
  faulted_iff := by simp [inv.noFault notFaulted]
  awaiting_mode := by simp
  wait_word _ := ⟨x, read⟩
  overflow := by simp [inv.noFault notFaulted]
  underflow := by simp [inv.noFault notFaulted]

/-- A machine that overflowed stands at the CALL, with SP at its bound. -/
theorem Inv.raiseFault_overflow {s : State} (inv : Inv s) {nnn : Addr} (full : s.sp.val = 16)
    (read : classify s.fetchWord = .op (.call nnn)) : Inv (s.raiseFault .stackOverflow) where
  memWf := inv.memWf
  faulted_iff := by simp
  awaiting_mode := by simp
  wait_word := by simp
  overflow _ := ⟨full, nnn, read⟩
  underflow := by simp

/-- A machine that underflowed stands at the RET, with SP at its bound. -/
theorem Inv.raiseFault_underflow {s : State} (inv : Inv s) {n2 : Nibble} (empty : s.sp.val = 0)
    (read : classify s.fetchWord = .op (.ret n2)) : Inv (s.raiseFault .stackUnderflow) where
  memWf := inv.memWf
  faulted_iff := by simp
  awaiting_mode := by simp
  wait_word := by simp
  overflow := by simp
  underflow _ := ⟨empty, n2, read⟩

/-- The key wait goes to Running or waits, a CALL or RET at its bound faults, and every other instruction is run in
Running and stays there. -/
theorem Inv.exec {s t : State} (inv : Inv s) {i : Instr} (notFaulted : s.mode ≠ .faulted)
    (read : classify s.fetchWord = .op i) (h : exec i s = .next t) : Inv t := by
  have wf := exec_wf inv.memWf h
  have noFault := inv.noFault notFaulted
  cases i
  case ldVxK x =>
    rcases execLdVxK_cases h with ⟨k, -, rfl⟩ | ⟨-, rfl⟩
    · exact .of_running wf rfl noFault rfl
    · exact inv.wait notFaulted read
  case call nnn =>
    have ⟨running, quiet⟩ := inv.running_of_no_wait notFaulted (by simp [read])
    rcases execCall_cases h with ⟨_, rfl⟩ | ⟨full, rfl⟩
    · exact .of_running wf running noFault quiet
    · exact inv.raiseFault_overflow full read
  case ret n2 =>
    have ⟨running, quiet⟩ := inv.running_of_no_wait notFaulted (by simp [read])
    rcases execRet_cases h with ⟨_, rfl⟩ | ⟨empty, rfl⟩
    · exact .of_running wf running noFault quiet
    · exact inv.raiseFault_underflow empty read
  all_goals
    have ⟨running, quiet⟩ := inv.running_of_no_wait notFaulted (by simp [read])
    have frame := exec_keepsAllBut h
    have ⟨mode, kind⟩ := frame.mode (by simp [changedParts])
    have signal := frame.awaitingInput (by simp [changedParts])
    exact .of_running wf (mode.trans running) (kind.trans noFault) (signal.trans quiet)

theorem Inv.step {s t : State} (inv : Inv s) (h : step s = .next t) : Inv t := by
  rcases step_cases h with ⟨-, rfl⟩ | ⟨notFaulted, i, read, hi⟩ | ⟨notFaulted, w, read, rfl⟩
  · exact inv
  · exact inv.exec notFaulted read hi
  · have ⟨running, quiet⟩ := inv.running_of_no_wait notFaulted (by simp [read])
    exact .of_running inv.memWf running (inv.noFault notFaulted) quiet

/-- A tick lowers the signal and touches nothing else that the invariant speaks of. -/
theorem Inv.tick {s : State} (inv : Inv s) : Inv s.tick := by
  by_cases faulted : s.mode = .faulted
  · rw [State.tick_of_faulted faulted]
    exact inv
  · rw [State.tick_of_not_faulted faulted]
    exact { inv with awaiting_mode := by simp }

theorem Inv.setKey {s : State} (inv : Inv s) (k : KeyIdx) (down : Bool) : Inv (s.setKey k down) := { inv with }

theorem Inv.applyEvent {s t : State} (inv : Inv s) {e : HostEvent} (h : applyEvent s e = .next t) : Inv t := by
  cases e with
  | step => exact inv.step h
  | tick => cases h; exact inv.tick
  | setKey k down => cases h; exact inv.setKey k down
  | pixel x y => cases h; exact inv

theorem Inv.reset : Inv State.reset := .of_running State.wf_reset rfl rfl rfl

/-- The font and the image lie inside the 4096 bytes, so writing them keeps memory canonical. -/
theorem Inv.construct {font : Vector Byte 80} {image : List Byte} {s : State} (h : construct font image = .ok s) :
    Inv s := by
  obtain ⟨fits, rfl⟩ := construct_eq_ok.1 h
  have fontFits : Config.fontBase + font.toList.length ≤ Config.memSize := by simp [Config.fontBase, Config.memSize]
  have imageFits : Config.progBase + image.length ≤ Config.memSize := Nat.add_le_add_left fits _
  exact .of_running (Memory.wf_writeBytes (Memory.wf_writeBytes Memory.wf_nil _ _ fontFits) _ _ imageFits) rfl rfl rfl

/-! ### The obligations -/

/-- Settles O11: every event leaves a Faulted machine as it was but for the latch, so a schedule does. -/
theorem faultedMachineIsFrozen : Obligations.FaultedMachineIsFrozen := by
  intro es s t faulted h
  have kept := runEvents_of_faulted faulted h
  have still : t.mode = .faulted := by rw [kept]; exact faulted
  exact ⟨kept, stepOutput_of_faulted still, step_of_faulted still, State.tick_of_faulted still⟩

/-- Settles O16: the two fault entries write the mode and the kind, and an instruction whose status is not fault
does not enter Faulted. -/
theorem stackFaultsAreTheOnlyFaults : Obligations.StackFaultsAreTheOnlyFaults := by
  refine ⟨fun nnn s full => ⟨execCall_of_full nnn full, if_pos full⟩,
    fun n2 s empty => ⟨execRet_of_empty empty, if_pos empty⟩, fun i s t notFaulted h faulted => ?_⟩
  rcases statusAfter_eq_fault.1 ((exec_faulted_iff notFaulted h).1 faulted) with ⟨⟨nnn, rfl⟩, full⟩ | ⟨⟨n2, rfl⟩, empty⟩
  · exact .inl ⟨nnn, rfl, full⟩
  · exact .inr ⟨n2, rfl, empty⟩

/-- Settles O17: the mode after a step is read off the instruction that ran (R215). -/
theorem modesChangeOnlyAsTheTableSays : Obligations.ModesChangeOnlyAsTheTableSays := by
  refine ⟨fun s t running h => ?fromRunning, fun s t inv awaiting h => ?fromAwaiting, fun s t faulted h => ?fromFaulted,
    State.tick_mode, fun s k down => rfl⟩
  case fromRunning =>
    have notFaulted : s.mode ≠ .faulted := by simp [running]
    rcases step_cases h with ⟨faulted, -⟩ | ⟨-, i, read, hi⟩ | ⟨-, w, read, rfl⟩
    · exact absurd faulted notFaulted
    · simp only [read, Classified.op.injEq]
      exact ⟨(exec_awaitingInput_iff running hi).trans statusAfter_eq_awaitingInput,
        (exec_faulted_iff notFaulted hi).trans statusAfter_eq_fault⟩
    · simp [read, running]
  case fromAwaiting =>
    obtain ⟨x, read⟩ := inv.wait_word awaiting
    rw [step_of_op (by simp [awaiting]) read] at h
    exact exec_ldVxK_mode h
  case fromFaulted =>
    cases (step_of_faulted faulted).symm.trans h
    exact faulted

/-- Settles O18: after reset memory is empty, the machine is in Running and the signal is down. -/
theorem invariantHoldsAtReset : Obligations.InvariantHoldsAtReset := Inv.reset

/-- Settles O19: construction writes the font and the image over the machine after reset, and nothing else. -/
theorem invariantHoldsAfterConstruction : Obligations.InvariantHoldsAfterConstruction := fun _ _ _ h => Inv.construct h

/-- Settles O20, by the cases of a step: nothing in Faulted, an instruction, or an Unknown word. -/
theorem invariantIsKeptByEveryStep : Obligations.InvariantIsKeptByEveryStep := fun _ _ inv h => inv.step h

/-- Settles O21, by induction on the schedule: each of the four events keeps the invariant. -/
theorem invariantIsKeptByEverySchedule : Obligations.InvariantIsKeptByEverySchedule :=
  fun _ _ _ inv h => runEvents_induction (fun _ _ _ keep event => keep.applyEvent event) inv h

end Sys2Proof.Machine
end

section
/-! PROOFS. Construction, reset and the canonical form of memory (`70_reset_and_hazards.md` section 1,
`20_memory.md` section 1). -/

namespace Sys2Proof.Machine

/-! ### The canonical form is canonical -/

namespace Memory

/-- A byte that is not the reset contents is listed. -/
theorem mem_of_readAt {m : Memory} {a : Nat} (differs : readAt m a ≠ unlisted a) : (a, readAt m a) ∈ m := by
  induction m with
  | nil => exact absurd rfl differs
  | cons c rest ih =>
    obtain ⟨k, b⟩ := c
    by_cases here : k = a
    · simp [readAt, here]
    · simp only [readAt, if_neg here] at differs ⊢
      exact List.mem_cons_of_mem _ (ih differs)

/-- With rising addresses a listed byte is the one read. -/
theorem readAt_of_mem {m : Memory} (rising : List.Pairwise (fun c d => c.1 < d.1) m) {c : Host.Cell} (h : c ∈ m) :
    readAt m c.1 = c.2 := by
  induction m with
  | nil => simp at h
  | cons d rest ih =>
    obtain ⟨below, rising⟩ := List.pairwise_cons.1 rising
    rcases List.mem_cons.1 h with rfl | h
    · rw [readAt, if_pos rfl]
    · rw [readAt, if_neg (below c h).ne]
      exact ih rising h

/-- A canonical memory lists only what every memory that reads the same lists. -/
theorem mem_of_reads_alike {m n : Memory} (wf : wf m) (alike : ∀ a, a < 4096 → readAt m a = readAt n a) {c : Host.Cell}
    (h : c ∈ m) : c ∈ n := by
  have reads : readAt n c.1 = c.2 := (alike c.1 (wf.2 c h).1).symm.trans (readAt_of_mem wf.1 h)
  have listed := mem_of_readAt (m := n) (a := c.1) (reads ▸ (wf.2 c h).2)
  rwa [reads] at listed

theorem nodup_of_wf {m : Memory} (wf : wf m) : m.Nodup :=
  wf.1.imp fun rising same => rising.ne (congrArg Prod.fst same)

theorem unlisted_of_le {a : Nat} (h : 80 ≤ a) : unlisted a = 0 := List.getD_eq_default _ _ h

end Memory

/-! ### What construction leaves in memory -/

section constructed
variable {font : Vector Byte 80} {image : List Byte} {s : State} (h : construct font image = .ok s)
include h

theorem memRead_of_construct_font {k : Nat} (hk : k < 80) : s.memRead k = font[k] := by
  obtain ⟨-, rfl⟩ := construct_eq_ok.1 h
  have inside : wrapAddr k = k := Nat.mod_eq_of_lt (hk.trans (by decide))
  have before : ¬ Config.progBase ≤ k := by simp only [Config.progBase]; omega
  simp [State.memRead, inside, Memory.readAt_writeBytes, before, hk, Config.fontBase]

theorem memRead_of_construct_zero {a : Nat} (inside : a < Config.memSize) (pastFont : 80 ≤ a)
    (offImage : ¬ (Config.progBase ≤ a ∧ a < Config.progBase + image.length)) : s.memRead a = 0 := by
  obtain ⟨-, rfl⟩ := construct_eq_ok.1 h
  have unwrapped : wrapAddr a = a := Nat.mod_eq_of_lt inside
  have offFont : ¬ (Config.fontBase ≤ a ∧ a < Config.fontBase + font.toList.length) := by
    simp [Config.fontBase, pastFont]
  simp only [State.memRead, unwrapped, Memory.readAt_writeBytes, dif_neg offImage, dif_neg offFont]
  exact Memory.unlisted_of_le pastFont

end constructed

/-- Writing the default font over empty memory lists nothing: an unlisted address reads as the font already. -/
theorem construct_default_eq_reset : construct Config.font [] = .ok State.reset := by rfl

/-! ### The obligations -/

/-- Settles O22: the image is written over the font and both over empty memory, and neither wraps. -/
theorem constructionLoadsFontAndImage : Obligations.ConstructionLoadsFontAndImage := by
  intro font image
  constructor
  · intro tooLarge
    exact construct_of_too_large font (by simp only [Config.progMax]; omega)
  · intro fits
    have constructed := construct_eq_ok (font := font) (image := image).2 ⟨by simp only [Config.progMax]; omega, rfl⟩
    refine ⟨_, constructed, fun k => memRead_of_construct_font constructed k.isLt, fun a pastFont below => ?beforeImage,
      fun k => memRead_of_construct constructed k.isLt, fun a past inside => ?pastImage⟩
    case beforeImage =>
      refine memRead_of_construct_zero constructed (below.trans (by decide)) pastFont ?_
      simp only [Config.progBase]; omega
    case pastImage =>
      refine memRead_of_construct_zero constructed inside (by omega) ?_
      simp only [Config.progBase]; omega

/-- Settles O24: reset is the construction with the default font and an empty image, and every field but memory is
written out. -/
theorem resetLeavesTheStatedValues : Obligations.ResetLeavesTheStatedValues := by
  have constructed := construct_default_eq_reset
  refine ⟨fun r => ?regs, rfl, rfl, rfl, fun k => ?stack, rfl, rfl, fun x y => FrameBuffer.pixel_blank x y,
    fun k => ?keys, rfl, rfl, rfl, rfl, fun k => ?font, fun a pastFont inside => ?zero, constructed⟩
  case regs => simp [State.readV, State.reset]
  case stack => simp [State.reset]
  case keys => simp [State.reset]
  case font => exact memRead_of_construct_font constructed k.isLt
  case zero => exact memRead_of_construct_zero constructed inside pastFont (by simp)

/-- Settles O25: two canonical memories that read alike list the same entries, each in rising order of address. -/
theorem canonicalMemoriesThatReadAlikeAreEqual : Obligations.CanonicalMemoriesThatReadAlikeAreEqual := by
  intro m n wfm wfn alike
  have same : m.Perm n := (List.perm_ext_iff_of_nodup (Memory.nodup_of_wf wfm) (Memory.nodup_of_wf wfn)).2 fun c =>
    ⟨Memory.mem_of_reads_alike wfm alike, Memory.mem_of_reads_alike wfn fun a ha => (alike a ha).symm⟩
  exact same.eq_of_pairwise (fun c d _ _ lt gt => absurd gt lt.asymm) wfm.1 wfn.1

end Sys2Proof.Machine
end

section
/-! PROOFS. The Control family, and LD I and JP V0 of the Address family (`40_control.md` section 3,
`41_address.md`). -/

namespace Sys2Proof.Machine

/-! ### The meanings -/

theorem exec_cls (n2 : Nibble) (s : State) : exec (.cls n2) s = .next (s.writeFb FrameBuffer.blank).advance := rfl

theorem exec_ret (n2 : Nibble) (s : State) : exec (.ret n2) s = execRet s := rfl

theorem exec_ldIAddr (nnn : Addr) (s : State) :
    exec (.ldIAddr nnn) s = .next (s.advance.writeI (addrOperand nnn)) := rfl

theorem exec_jpV0Addr (nnn : Addr) (s : State) : exec (.jpV0Addr nnn) s = .next (s.jumpTo (v0Target s nnn)) := rfl

/-- The target of JP V0 is below 65536, so the sum does not wrap. -/
theorem toNat_v0Target (s : State) (nnn : Addr) : (v0Target s nnn).toNat = nnn.toNat + (s.readV 0).toNat := by
  have := nnn.isLt
  have := (s.readV 0).isLt
  rw [v0Target, BitVec.toNat_ofNat]
  omega

/-! ### The obligations -/

/-- Settles O26: CLS is one write of the blank buffer and PC + 2 (R105). -/
theorem clsClearsEveryPixel : Obligations.ClsClearsEveryPixel := fun n2 s =>
  ⟨_, exec_cls n2 s, rfl, fun x y => FrameBuffer.pixel_blank x y, rfl, exec_keepsRegsBut (exec_cls n2 s),
    exec_keepsAllBut (exec_cls n2 s)⟩

/-- Settles O27: with an entry on the stack RET is a pop into PC, and the pop leaves the entries (R106). -/
theorem retPopsTheReturnAddress : Obligations.RetPopsTheReturnAddress := by
  intro n2 s k hk
  have entry : 0 < s.sp.val := by omega
  refine ⟨_, (exec_ret n2 s).trans (execRet_of_entry entry), if_neg entry.ne', ?address, by simp [hk], rfl,
    keepsRegsBut_of_v_eq rfl _, keepsAllBut_stack_pc s _ _ _⟩
  case address => simp [hk]

/-- Settles O29: the entry CALL pushed is the one on top when the stack is as CALL left it. -/
theorem retReturnsBehindItsCall : Obligations.RetReturnsBehindItsCall := by
  intro nnn n2 s t u room call stack sp
  cases (execCall_of_room nnn room).symm.trans call
  have depth : u.sp.val = s.sp.val + 1 := congrArg Fin.val sp
  have entry : 0 < u.sp.val := by omega
  refine ⟨_, (exec_ret n2 u).trans (execRet_of_entry entry), ?address, Fin.ext ?depth, rfl⟩
  case address => simp [depth, stack]
  case depth => simp [depth]

/-- Settles O31: LD I is a write of I, JP V0 a jump. -/
theorem loadIndexAndOffsetJump : Obligations.LoadIndexAndOffsetJump := by
  refine ⟨fun nnn s => ?ldI, fun nnn s => ?jpV0⟩
  case ldI =>
    exact ⟨_, exec_ldIAddr nnn s, rfl, toNat_addrOperand nnn, rfl, exec_keepsRegsBut (exec_ldIAddr nnn s),
      exec_keepsAllBut (exec_ldIAddr nnn s)⟩
  case jpV0 =>
    exact ⟨_, exec_jpV0Addr nnn s, rfl, toNat_v0Target s nnn, exec_keepsRegsBut (exec_jpV0Addr nnn s),
      exec_keepsAllBut (exec_jpV0Addr nnn s)⟩

end Sys2Proof.Machine
end

section
/-! PROOFS. The comparing skips, the immediates and the flag-writing ALU instructions (`42_reg_imm.md`,
`43_reg_pair.md`). -/

namespace Sys2Proof.Machine

/-! ### The meanings -/

section meanings
variable (x y : RegIdx) (kk : Byte) (n3 : Nibble) (s : State)

theorem exec_seVxByte : exec (.seVxByte x kk) s = .next (s.skipIf (s.readV x == kk)) := rfl

theorem exec_sneVxByte : exec (.sneVxByte x kk) s = .next (s.skipIf (s.readV x != kk)) := rfl

theorem exec_seVxVy : exec (.seVxVy x y) s = .next (s.skipIf (s.readV x == s.readV y)) := rfl

theorem exec_sneVxVy : exec (.sneVxVy x y) s = .next (s.skipIf (s.readV x != s.readV y)) := rfl

theorem exec_ldVxByte : exec (.ldVxByte x kk) s = .next (s.writeV x kk).advance := rfl

theorem exec_addVxByte : exec (.addVxByte x kk) s = .next (s.writeV x (sum8 (s.readV x) kk)).advance := rfl

theorem exec_rndVxByte : exec (.rndVxByte x kk) s = .next (rndWith (Config.rnd s.rndCount) x kk s).countDraw := rfl

theorem exec_addVxVy : exec (.addVxVy x y) s = .next (s.writeResultThenFlag x (sum8 (s.readV x) (s.readV y))
    (flagByte (carryOf (s.readV x) (s.readV y)))).advance := rfl

theorem exec_subVxVy : exec (.subVxVy x y) s = .next (s.writeResultThenFlag x (diff8 (s.readV x) (s.readV y))
    (flagByte (noBorrow (s.readV x) (s.readV y)))).advance := rfl

theorem exec_subnVxVy : exec (.subnVxVy x y) s = .next (s.writeResultThenFlag x (diff8 (s.readV y) (s.readV x))
    (flagByte (noBorrow (s.readV y) (s.readV x)))).advance := rfl

theorem exec_shrVx : exec (.shrVx x n3) s = .next (s.writeResultThenFlag x (shiftRight8 (s.readV x))
    (flagByte (shiftedOutRight (s.readV x)))).advance := rfl

theorem exec_shlVx : exec (.shlVx x n3) s = .next (s.writeResultThenFlag x (shiftLeft8 (s.readV x))
    (flagByte (shiftedOutLeft (s.readV x)))).advance := rfl

end meanings

/-! ### Skips -/

theorem State.skipIf_true (s : State) {c : Bool} (h : c = true) : s.skipIf c = { s with pc := s.pc + 4 } := by
  subst h; rfl

theorem State.skipIf_false (s : State) {c : Bool} (h : c = false) : s.skipIf c = { s with pc := s.pc + 2 } := by
  subst h; rfl

/-! ### 8-bit results and flags as numbers -/

theorem toNat_sum8 (a b : Byte) : (sum8 a b).toNat = (a.toNat + b.toNat) % 256 := BitVec.toNat_ofNat _ _

theorem toNat_diff8 (a b : Byte) : (diff8 a b).toNat = (a.toNat + 256 - b.toNat) % 256 := by
  have := b.isLt
  rw [diff8, BitVec.toNat_ofInt]
  omega

theorem toNat_shiftRight8 (a : Byte) : (shiftRight8 a).toNat = a.toNat / 2 := by
  rw [shiftRight8, BitVec.toNat_ofNat]
  omega

theorem toNat_shiftLeft8 (a : Byte) : (shiftLeft8 a).toNat = 2 * a.toNat % 256 := BitVec.toNat_ofNat _ _

theorem flagByte_carryOf (a b : Byte) : flagByte (carryOf a b) = if a.toNat + b.toNat > 255 then 1 else 0 := by
  simp [flagByte, carryOf]

theorem flagByte_noBorrow (a b : Byte) : flagByte (noBorrow a b) = if a.toNat ≥ b.toNat then 1 else 0 := by
  simp [flagByte, noBorrow]

theorem toNat_flagByte (b : Bool) : (flagByte b).toNat = b.toNat := by cases b <;> rfl

theorem toNat_flagByte_shiftedOutRight (a : Byte) : (flagByte (shiftedOutRight a)).toNat = a.toNat % 2 := by
  rw [toNat_flagByte, shiftedOutRight, BitVec.getLsbD, Nat.toNat_testBit]
  omega

theorem toNat_flagByte_shiftedOutLeft (a : Byte) : (flagByte (shiftedOutLeft a)).toNat = a.toNat / 128 := by
  rw [toNat_flagByte, shiftedOutLeft, BitVec.getLsbD, Nat.toNat_testBit]
  omega

/-! ### A result and then a flag -/

section resultThenFlag
variable (s : State) (x : RegIdx) (a b : Byte)

theorem readV_result {x : RegIdx} (h : x ≠ flagReg) : (s.writeResultThenFlag x a b).advance.readV x = a := by
  simp [h]

theorem readV_flag : (s.writeResultThenFlag x a b).advance.readV flagReg = b := by simp

/-- What the five flag writers leave behind, whatever the result and the flag. -/
theorem writeResultThenFlag_advance_frame :
    (s.writeResultThenFlag x a b).advance.pc = s.pc + 2 ∧
      KeepsRegsBut [x, flagReg] s (s.writeResultThenFlag x a b).advance ∧
      KeepsAllBut [] s (s.writeResultThenFlag x a b).advance :=
  ⟨rfl, keepsRegsBut_writeResultThenFlag_advance s x a b, keepsAllBut_v_pc s _ _⟩

theorem keepsRegsBut_flag_of_flag_result :
    KeepsRegsBut [flagReg] s (s.writeResultThenFlag flagReg a b).advance := fun r hr =>
  keepsRegsBut_writeResultThenFlag_advance s flagReg a b r (by simpa using hr)

end resultThenFlag

/-! ### The obligations -/

/-- Settles O32: the condition is the comparison of the two operands, as a Boolean. -/
theorem comparingSkips : Obligations.ComparingSkips := by
  have skip (s : State) (a b : Byte) :
      (a = b → s.skipIf (a == b) = { s with pc := s.pc + 4 } ∧ s.skipIf (a != b) = { s with pc := s.pc + 2 }) ∧
      (a ≠ b → s.skipIf (a == b) = { s with pc := s.pc + 2 } ∧ s.skipIf (a != b) = { s with pc := s.pc + 4 }) :=
    ⟨fun equal => ⟨s.skipIf_true (by simpa using equal), s.skipIf_false (by simpa using equal)⟩,
      fun unequal => ⟨s.skipIf_false (by simpa using unequal), s.skipIf_true (by simpa using unequal)⟩⟩
  simp only [Obligations.ComparingSkips, exec_seVxByte, exec_sneVxByte, exec_seVxVy, exec_sneVxVy,
    Host.Outcome.next.injEq]
  exact ⟨fun x kk s => ⟨(skip s _ _).1, (skip s _ _).2, rfl, rfl⟩,
    fun x y s => ⟨(skip s _ _).1, (skip s _ _).2, rfl, rfl⟩⟩

/-- Settles O33: both are one register write and PC + 2 (R122, R123). -/
theorem loadAndAddImmediate : Obligations.LoadAndAddImmediate := by
  refine ⟨fun x kk s => ?ld, fun x kk s => ?add⟩
  case ld => exact ⟨_, exec_ldVxByte x kk s, rfl, readV_writeV_advance_self s x _, writeV_advance_frame s x _⟩
  case add =>
    refine ⟨_, exec_addVxByte x kk s, rfl, ?_, writeV_advance_frame s x _⟩
    rw [readV_writeV_advance_self, toNat_sum8]

/-- Settles O34: the effect of RND is that of `rndWith` for the byte drawn, and a mask clears the bits outside it. -/
theorem rndMasksAFreeByte : Obligations.RndMasksAFreeByte := by
  intro x kk s
  refine ⟨?drawn, fun r => ⟨readV_writeV_advance_self s x _, writeV_advance_frame s x _⟩⟩
  have value : (rndWith (Config.rnd s.rndCount) x kk s).countDraw.readV x = Config.rnd s.rndCount &&& kk :=
    readV_writeV_advance_self s x _
  refine ⟨_, exec_rndVxByte x kk s, rfl, ⟨_, rfl, value⟩, ?masked, rfl, rfl, exec_keepsRegsBut (exec_rndVxByte x kk s),
    exec_keepsAllBut (exec_rndVxByte x kk s)⟩
  rw [value, BitVec.and_assoc, BitVec.and_not_self]
  exact BitVec.and_zero

/-- Settles O36: each is a result and then a flag, both computed from the old values (R136, R137, R139). -/
theorem addSubSubnResultAndFlag : Obligations.AddSubSubnResultAndFlag := by
  intro x y s
  refine ⟨?add, ?sub, ?subn⟩
  case add =>
    refine ⟨_, exec_addVxVy x y s, rfl, fun notFlag => ?_, ?_, writeResultThenFlag_advance_frame s x _ _⟩
    · rw [readV_result s _ _ notFlag, toNat_sum8]
    · rw [readV_flag, flagByte_carryOf]
  case sub =>
    refine ⟨_, exec_subVxVy x y s, rfl, fun notFlag => ?_, ?_, writeResultThenFlag_advance_frame s x _ _⟩
    · rw [readV_result s _ _ notFlag, toNat_diff8]
    · rw [readV_flag, flagByte_noBorrow]
  case subn =>
    refine ⟨_, exec_subnVxVy x y s, rfl, fun notFlag => ?_, ?_, writeResultThenFlag_advance_frame s x _ _⟩
    · rw [readV_result s _ _ notFlag, toNat_diff8]
    · rw [readV_flag, flagByte_noBorrow]

/-- Settles O37: the same for the two shifts, whose flag is the bit shifted out (R138, R140). -/
theorem shrShlResultAndFlag : Obligations.ShrShlResultAndFlag := by
  intro x n3 s
  refine ⟨?shr, ?shl⟩
  case shr =>
    refine ⟨_, exec_shrVx x n3 s, rfl, fun notFlag => ?_, ?_, writeResultThenFlag_advance_frame s x _ _⟩
    · rw [readV_result s _ _ notFlag, toNat_shiftRight8]
    · rw [readV_flag, toNat_flagByte_shiftedOutRight]
  case shl =>
    refine ⟨_, exec_shlVx x n3 s, rfl, fun notFlag => ?_, ?_, writeResultThenFlag_advance_frame s x _ _⟩
    · rw [readV_result s _ _ notFlag, toNat_shiftLeft8]
    · rw [readV_flag, toNat_flagByte_shiftedOutLeft]

/-- Settles O38: the flag is written last, over the result (R130). -/
theorem flagIsWrittenAfterTheResult : Obligations.FlagIsWrittenAfterTheResult := by
  intro y n3 s
  refine ⟨⟨_, exec_addVxVy flagReg y s, keepsRegsBut_flag_of_flag_result s _ _, ?add⟩,
    ⟨_, exec_subVxVy flagReg y s, keepsRegsBut_flag_of_flag_result s _ _, ?sub⟩,
    ⟨_, exec_subnVxVy flagReg y s, keepsRegsBut_flag_of_flag_result s _ _, ?subn⟩,
    ⟨_, exec_shrVx flagReg n3 s, keepsRegsBut_flag_of_flag_result s _ _, ?shr⟩,
    ⟨_, exec_shlVx flagReg n3 s, keepsRegsBut_flag_of_flag_result s _ _, ?shl⟩⟩
  case add => rw [readV_flag, flagByte_carryOf]
  case sub => rw [readV_flag, flagByte_noBorrow]
  case subn => rw [readV_flag, flagByte_noBorrow]
  case shr => rw [readV_flag, toNat_flagByte_shiftedOutRight]
  case shl => rw [readV_flag, toNat_flagByte_shiftedOutLeft]

end Sys2Proof.Machine
end

section
/-! PROOFS. The sprite writer (`44_draw.md`). -/

namespace Sys2Proof.Machine

/-! ### What DRW leaves -/

theorem exec_drwVxVyN (x y : RegIdx) (n : Fin 16) (s : State) : exec (.drwVxVyN x y n) s =
    .next (((s.writeFb (drawSprite s (s.readV x).toNat (s.readV y).toNat n.val).1).writeFlag
      (flagByte (drawSprite s (s.readV x).toNat (s.readV y).toNat n.val).2)).signalDraw).advance := rfl

theorem flagByte_eq_one {b : Bool} : flagByte b = 1 ↔ b = true := by cases b <;> decide

theorem flagByte_eq_zero {b : Bool} : flagByte b = 0 ↔ b = false := by cases b <;> decide

/-- A sprite erases a pixel exactly where it covers a set one. -/
theorem drawSprite_collides_iff (s : State) (vx vy : Byte) (n : Fin 16) :
    (drawSprite s vx.toNat vy.toNat n.val).2 = true ↔
      ∃ (px : Fin 64) (py : Fin 32), s.pixelAt px py = true ∧ spriteCovers s vx vy n.val px py = true := by
  rw [collision_drawSprite s _ _ n.val (by omega)]
  constructor
  · rintro ⟨x, y, hx, hy, set, covered⟩
    exact ⟨⟨x, hx⟩, ⟨y, hy⟩, set, covered⟩
  · rintro ⟨px, py, set, covered⟩
    exact ⟨px.val, py.val, px.isLt, py.isLt, set, covered⟩

section draw
variable {x y : RegIdx} {n : Fin 16} {s t : State} (h : exec (.drwVxVyN x y n) s = .next t)
include h

/-- Each pixel is XORed with the sprite's bit there (R150). -/
theorem pixelAt_of_drw (px : Fin 64) (py : Fin 32) :
    t.pixelAt px py = (s.pixelAt px py ^^ spriteCovers s (s.readV x) (s.readV y) n.val px py) := by
  cases h
  exact pixel_drawSprite s _ _ n.val (by omega) px.isLt py.isLt

theorem readV_flag_of_drw :
    t.readV flagReg = flagByte (drawSprite s (s.readV x).toNat (s.readV y).toNat n.val).2 := by
  cases h
  simp

/-- VF after a draw tells whether a set pixel met a set bit (R152). -/
theorem readV_flag_eq_one_of_drw : t.readV flagReg = 1 ↔ ∃ (px : Fin 64) (py : Fin 32),
    s.pixelAt px py = true ∧ spriteCovers s (s.readV x) (s.readV y) n.val px py = true := by
  rw [readV_flag_of_drw h, flagByte_eq_one, drawSprite_collides_iff]

theorem readV_flag_eq_zero_of_drw : t.readV flagReg = 0 ↔ ¬ ∃ (px : Fin 64) (py : Fin 32),
    s.pixelAt px py = true ∧ spriteCovers s (s.readV x) (s.readV y) n.val px py = true := by
  rw [readV_flag_of_drw h, flagByte_eq_zero, ← drawSprite_collides_iff, Bool.not_eq_true]

/-- A set pixel is unset by a draw exactly where the sprite covers it. -/
theorem erased_iff_covered_of_drw (px : Fin 64) (py : Fin 32) : (s.pixelAt px py = true ∧ t.pixelAt px py = false) ↔
    (s.pixelAt px py = true ∧ spriteCovers s (s.readV x) (s.readV y) n.val px py = true) := by
  rw [pixelAt_of_drw h]
  cases s.pixelAt px py <;> simp

/-- A draw moves neither I nor memory, so the same sprite is drawn the next time. -/
theorem spriteCovers_of_drw (vx vy : Byte) (k : Nat) (px : Fin 64) (py : Fin 32) :
    spriteCovers t vx vy k px py = spriteCovers s vx vy k px py := by
  cases h
  rfl

end draw

/-- A sprite of zero bytes covers nothing. -/
theorem spriteCovers_of_blank {s : State} {n : Nat} (blank : ∀ row, row < n → s.memRead (s.i.toNat + row) = 0)
    (vx vy : Byte) (px : Fin 64) (py : Fin 32) : spriteCovers s vx vy n px py = false := by
  by_cases inside : (py.val + 32 - vy.toNat % 32) % 32 < n
  · simp [spriteCovers, blank _ inside]
  · simp [spriteCovers, inside]

/-- A draw that changes no pixel leaves every part but the signal. -/
theorem keepsAllBut_draw_of_same_fb {s : State} {f : FrameBuffer} (same : f = s.fb) (flag : Byte) :
    KeepsAllBut [.drawReady] s (((s.writeFb f).writeFlag flag).signalDraw).advance := by
  constructor <;> simp [same]

/-! ### The obligations -/

/-- Settles O39: the pixels and the collision of the whole sprite, and the frame of DRW. -/
theorem drwXorsTheSpriteIntoTheFrameBuffer : Obligations.DrwXorsTheSpriteIntoTheFrameBuffer := by
  intro x y n s
  have h := exec_drwVxVyN x y n s
  refine ⟨_, h, rfl, pixelAt_of_drw h, (readV_flag_eq_one_of_drw h).2, fun apart => ?_, rfl, rfl, exec_keepsRegsBut h,
    exec_keepsAllBut h⟩
  refine (readV_flag_eq_zero_of_drw h).2 ?_
  rintro ⟨px, py, set, covered⟩
  simp [apart px py covered] at set

/-- Settles O40: a pixel is erased exactly where it was set and covered. -/
theorem drwFlagIsSetExactlyByAnErasure : Obligations.DrwFlagIsSetExactlyByAnErasure := by
  intro x y n s t h
  simp only [erased_iff_covered_of_drw h]
  exact ⟨(readV_flag_eq_one_of_drw h).symm, (readV_flag_eq_zero_of_drw h).symm⟩

/-- Settles O41: the second draw reads the same coordinates and the same sprite, so each pixel is XORed twice with the
same bit; a pixel that is set and covered the second time was unset before the first. -/
theorem drwTwiceRestoresTheFrameBuffer : Obligations.DrwTwiceRestoresTheFrameBuffer := by
  intro x y n s t u hx hy first second
  have sameX : t.readV x = s.readV x := exec_keepsRegsBut first x (by simpa [changedRegs] using hx)
  have sameY : t.readV y = s.readV y := exec_keepsRegsBut first y (by simpa [changedRegs] using hy)
  constructor
  · intro px py
    rw [pixelAt_of_drw second, pixelAt_of_drw first, sameX, sameY, spriteCovers_of_drw first, Bool.xor_assoc,
      Bool.xor_self, Bool.xor_false]
  · simp only [readV_flag_eq_one_of_drw second, pixelAt_of_drw first, sameX, sameY, spriteCovers_of_drw first]
    refine exists_congr fun px => exists_congr fun py => ?_
    cases spriteCovers s (s.readV x) (s.readV y) n.val px py <;> simp

/-- Settles O42: a blank sprite covers no pixel, so the buffer stays and nothing collides. -/
theorem drwOfABlankSpriteOnlyClearsVfAndRaisesTheSignal :
    Obligations.DrwOfABlankSpriteOnlyClearsVfAndRaisesTheSignal := by
  intro x y n s blank
  have h := exec_drwVxVyN x y n s
  have uncovered := spriteCovers_of_blank blank (s.readV x) (s.readV y)
  have same : (drawSprite s (s.readV x).toNat (s.readV y).toNat n.val).1 = s.fb :=
    FrameBuffer.ext_pixel fun px hx py hy =>
      (pixelAt_of_drw h ⟨px, hx⟩ ⟨py, hy⟩).trans (by rw [uncovered, Bool.xor_false, State.pixelAt])
  exact ⟨_, h, rfl, same, (readV_flag_eq_zero_of_drw h).2 (by simp [uncovered]), rfl, rfl, exec_keepsRegsBut h,
    keepsAllBut_draw_of_same_fb same _⟩

end Sys2Proof.Machine
end

section
/-! PROOFS. The Keyed single-register family without the timer copies and the digit store
(`45_keyed_single_reg.md`). -/

namespace Sys2Proof.Machine

/-! ### The meanings -/

section meanings
variable (x : RegIdx) (s : State)

theorem exec_skpVx : exec (.skpVx x) s = .next (s.skipIf (keySelected s (s.readV x))) := rfl

theorem exec_sknpVx : exec (.sknpVx x) s = .next (s.skipIf (!keySelected s (s.readV x))) := rfl

theorem exec_ldVxK : exec (.ldVxK x) s = execLdVxK x s := rfl

theorem exec_addIVx : exec (.addIVx x) s = .next (s.writeI (indexSum s.i (s.readV x))).advance := rfl

theorem exec_ldFVx : exec (.ldFVx x) s = .next (s.writeI (glyphAddr (s.readV x))).advance := rfl

theorem exec_ldMemVx : exec (.ldMemVx x) s = .next (storeRegs x s).advance := rfl

theorem exec_ldVxMem : exec (.ldVxMem x) s = .next (loadRegs x s).advance := rfl

end meanings

/-! ### Keys -/

/-- On this hardware a byte selects the key of its low four bits (R171). -/
theorem keySelected_eq (s : State) {b : Byte} {k : KeyIdx} (h : b.toNat % 16 = k.val) : keySelected s b = s.key[k] := by
  obtain rfl : k = ⟨b.toNat % 16, Nat.mod_lt _ (by decide)⟩ := Fin.ext h.symm
  rfl

theorem keySelectedWith_notDown_of_gt (s : State) {b : Byte} (h : 15 < b.toNat) :
    keySelectedWith .notDown s b = false := by
  simp [keySelectedWith, keyIndexWith, show ¬ b.toNat < 16 by omega]

theorem keySelectedWith_notDown_of_le (s : State) {b : Byte} (h : b.toNat ≤ 15) :
    keySelectedWith .notDown s b = keySelectedWith .mask4 s b := by
  have small : b.toNat < 16 := by omega
  simp only [keySelectedWith, keyIndexWith, dif_pos small, Nat.mod_eq_of_lt small]

/-- A key wait with every key up waits, whatever has been waited for so far. -/
theorem step_of_keyWait {s : State} {x : RegIdx} (notFaulted : s.mode ≠ .faulted)
    (read : classify s.fetchWord = .op (.ldVxK x)) (up : ∀ k : KeyIdx, s.key[k] = false) :
    step s = .next { s with awaitingInput := true, mode := .awaitingInput } :=
  (step_of_op notFaulted read).trans (execLdVxK_of_none x (State.lowestKeyDown_eq_none.2 up))

/-! ### Runs -/

/-- A run is its first step and then the rest. -/
theorem run_succ_of_step {M : Host.Core} {s t : M.State} (h : M.step s = .next t) (k : Nat) :
    M.run (k + 1) s = M.run k t := by
  rw [Host.Core.run, h]

theorem run_succ {s t : State} (h : step s = .next t) (k : Nat) :
    Host.Core.run Sys2Proof.core (k + 1) s = Host.Core.run Sys2Proof.core k t :=
  run_succ_of_step (M := Sys2Proof.core) h k

/-! ### The addresses a fetch and a block copy meet at -/

/-- The word at PC when PC and another address agree mod 4096. -/
theorem fetchWord_toNat_of_wrap {s : State} {a : Nat} (h : wrapAddr s.pc.toNat = wrapAddr a) :
    s.fetchWord.toNat = 256 * (s.memRead a).toNat + (s.memRead (a + 1)).toNat := by
  have next : wrapAddr (s.pc.toNat + 1) = wrapAddr (a + 1) := by
    simp only [wrapAddr, Config.memSize] at *
    omega
  rw [State.fetchWord, wordOfBytes_toNat, s.memRead_of_wrap_eq h, s.memRead_of_wrap_eq next]

theorem toNat_glyphAddr (b : Byte) : (glyphAddr b).toNat = 5 * b.toNat := by
  have := b.isLt
  rw [glyphAddr, BitVec.toNat_ofNat, Config.fontBase]
  omega

/-! ### The obligations -/

/-- Settles O43: the condition is the selected key, or its negation. -/
theorem keySkipsTestTheLatch : Obligations.KeySkipsTestTheLatch := by
  refine ⟨fun x s k number => ?skips, fun s b => keySelectedWith_notDown_of_gt s,
    fun s b => keySelectedWith_notDown_of_le s⟩
  simp only [exec_skpVx, exec_sknpVx, keySelected_eq s number, Host.Outcome.next.injEq]
  exact ⟨fun down => ⟨s.skipIf_true down, s.skipIf_false (by rw [down]; rfl)⟩,
    fun up => ⟨s.skipIf_false up, s.skipIf_true (by rw [up]; rfl)⟩, rfl, rfl⟩

/-- Settles O44: the two outcomes of the key wait, by what the lowest key down is (R163). -/
theorem keyWaitTakesTheLowestKeyOrWaits : Obligations.KeyWaitTakesTheLowestKeyOrWaits := by
  constructor
  · intro x s k down lower
    have found : s.lowestKeyDown = some k := State.lowestKeyDown_eq_some.2 ⟨down, lower⟩
    have h := (exec_ldVxK x s).trans (execLdVxK_of_key x found)
    refine ⟨_, h, by simp [statusAfter, found], ?number, rfl, rfl, rfl, rfl, exec_keepsRegsBut h, exec_keepsAllBut h⟩
    case number =>
      simp
      omega
  · intro x s up
    have none := State.lowestKeyDown_eq_none.2 up
    exact ⟨execLdVxK_of_none x none, by simp [statusAfter, none]⟩

/-- Settles O45: the waiting state waits again, so every further step gives it back. -/
theorem keyWaitHoldsUntilAKeyIsDown : Obligations.KeyWaitHoldsUntilAKeyIsDown := by
  intro n x s notFaulted read up
  rw [run_succ (step_of_keyWait notFaulted read up)]
  induction n with
  | zero => rfl
  | succ n ih =>
    rw [run_succ (step_of_keyWait (s := { s with awaitingInput := true, mode := .awaitingInput }) (by simp) read up)]
    exact ih

/-- Settles O47: the sum is taken mod 65536, and 5 times a byte does not wrap. -/
theorem indexArithmetic : Obligations.IndexArithmetic := by
  refine ⟨fun x s => ?addI, fun x s => ?ldF⟩
  case addI =>
    have h := exec_addIVx x s
    exact ⟨_, h, rfl, BitVec.toNat_ofNat _ _, rfl, exec_keepsRegsBut h, exec_keepsAllBut h⟩
  case ldF =>
    have h := exec_ldFVx x s
    exact ⟨_, h, rfl, toNat_glyphAddr _, rfl, exec_keepsRegsBut h, exec_keepsAllBut h⟩

/-- Settles O49: the block store puts each register at its own address, and PC + 2 touches no memory (R169). -/
theorem blockStoreWritesRegistersUpToX : Obligations.BlockStoreWritesRegistersUpToX := by
  intro x s
  have h := exec_ldMemVx x s
  exact ⟨_, h, rfl, fun r hr => storeRegs_same hr s, fun a outside => storeRegs_other x s a outside,
    exec_pc_of_advance h rfl, exec_keepsRegsBut h, exec_keepsAllBut h⟩

/-- Settles O50: the block load writes the registers up to x alone, and PC + 2 touches no register (R170). -/
theorem blockLoadReadsRegistersUpToX : Obligations.BlockLoadReadsRegistersUpToX := by
  intro x s
  have h := exec_ldVxMem x s
  refine ⟨_, h, rfl, fun r hr => ?loaded, fun r hr => ?kept, exec_pc_of_advance h rfl, exec_keepsAllBut h⟩
  case loaded => rw [State.readV_advance, readV_loadRegs, if_pos hr]
  case kept => rw [State.readV_advance, readV_loadRegs, if_neg hr.not_ge]

/-- Settles O51: a register is loaded from the byte it was stored at. -/
theorem blockLoadUndoesBlockStore : Obligations.BlockLoadUndoesBlockStore := by
  intro x s t u w store mem index load r hr
  cases store
  cases load
  rw [State.readV_advance, readV_loadRegs, if_pos hr, index, State.memRead_congr mem, State.memRead_advance,
    storeRegs_same hr]

/-- Settles O52: the fetch at PC + 2 reads the bytes at I and I + 1, which are V0 and V1. -/
theorem storedBytesAreTheNextWordFetched : Obligations.StoredBytesAreTheNextWordFetched := by
  intro x s t some_pair here h
  have pc := exec_pc_of_advance h rfl
  cases h
  have meets : wrapAddr (storeRegs x s).advance.pc.toNat = wrapAddr s.i.toNat := by
    rw [pc, BitVec.toNat_add, show (2 : Word).toNat = 2 from rfl]
    simp only [wrapAddr, Config.memSize]
    omega
  have first : (storeRegs x s).memRead s.i.toNat = s.readV 0 := storeRegs_same (Fin.zero_le x) s
  have second : (storeRegs x s).memRead (s.i.toNat + 1) = s.readV 1 := storeRegs_same (r := 1) some_pair s
  rw [fetchWord_toNat_of_wrap meets, State.memRead_advance, State.memRead_advance, first, second]

end Sys2Proof.Machine
end

section
/-! PROOFS. Timers and the frame schedule (`60_exceptions.md` section 6). -/

namespace Sys2Proof.Machine

/-! ### A tick -/

theorem toNat_countDown (b : Byte) : (countDown b).toNat = b.toNat - 1 := by
  unfold countDown
  split
  case isTrue zero => simp [zero]
  case isFalse positive => bv_omega

theorem keepsAllBut_tick (s : State) : KeepsAllBut [.dt, .st, .drawReady, .awaitingInput] s s.tick := by
  by_cases faulted : s.mode = .faulted
  · rw [State.tick_of_faulted faulted]
    exact (keepsAllBut_v_pc s s.v s.pc).mono (by simp)
  · rw [State.tick_of_not_faulted faulted]
    constructor <;> simp [State.memRead]

/-! ### A burst -/

/-- The burst of budget n from s is k steps in a row that end in t with the status st, the last of them the first whose
status is not normal, if the budget allows one. -/
structure BurstRun (n : Nat) (s : State) (k : Nat) (t : State) (st : Status) : Prop where
  within : k ≤ n
  burst_eq : burst n s = .next (t, st)
  run_eq : Host.Core.run Sys2Proof.core k s = .next t
  statuses : ∀ j, j < k → ∃ u : State, Host.Core.run Sys2Proof.core j s = .next u ∧
    (stepOutput u).status = if j + 1 = k then st else .normal
  starts : 0 < n → 0 < k
  stops : k < n → st ≠ .normal
  idle : k = 0 → st = .normal
  faulted : st = .fault → t.mode = .faulted

theorem BurstRun.zero (s : State) : BurstRun 0 s 0 s .normal where
  within := Nat.le_refl 0
  burst_eq := rfl
  run_eq := rfl
  statuses := by simp
  starts := by simp
  stops := by simp
  idle _ := rfl
  faulted := by simp

/-- A step of another status ends the burst. -/
theorem BurstRun.last {s t : State} (h : step s = .next t) (other : (stepOutput s).status ≠ .normal) (n : Nat) :
    BurstRun (n + 1) s 1 t (stepOutput s).status where
  within := by omega
  burst_eq := by
    rw [burst, h]
    cases status : (stepOutput s).status with
    | normal => exact absurd status other
    | drawReady | awaitingInput | fault => rfl
  run_eq := run_succ h 0
  statuses j hj := by
    obtain rfl : j = 0 := by omega
    exact ⟨s, rfl, rfl⟩
  starts _ := Nat.one_pos
  stops _ := other
  idle := by simp
  faulted := (statusTellsWhatTheStepDid s t h).1.1

/-- A step of status normal leaves the rest of the burst to be run. -/
theorem BurstRun.cons {s t u : State} {n k : Nat} {st : Status} (h : step s = .next t)
    (normal : (stepOutput s).status = .normal) (rest : BurstRun n t k u st) : BurstRun (n + 1) s (k + 1) u st where
  within := Nat.succ_le_succ rest.within
  burst_eq := by simp only [burst, h, normal, rest.burst_eq]
  run_eq := (run_succ h k).trans rest.run_eq
  statuses j hj := by
    cases j with
    | zero =>
      refine ⟨s, rfl, normal.trans ?_⟩
      split
      · exact (rest.idle (by omega)).symm
      · rfl
    | succ j =>
      obtain ⟨v, ran, status⟩ := rest.statuses j (by omega)
      exact ⟨v, (run_succ h j).trans ran, by simpa using status⟩
  starts _ := Nat.succ_pos k
  stops short := rest.stops (by omega)
  idle := by simp
  faulted := rest.faulted

theorem burstRun_exists (n : Nat) (s : State) : ∃ k t st, BurstRun n s k t st := by
  induction n generalizing s with
  | zero => exact ⟨0, s, .normal, .zero s⟩
  | succ n ih =>
    obtain ⟨t, h⟩ := step_answers s
    by_cases normal : (stepOutput s).status = .normal
    · obtain ⟨k, u, st, rest⟩ := ih t
      exact ⟨k + 1, u, st, rest.cons h normal⟩
    · exact ⟨1, t, _, .last h normal n⟩

/-! ### A frame -/

section frame
variable {n : Nat} {s t : State} {st : Status} (h : burst n s = .next (t, st))
include h

theorem frame_of_burst_fault (fault : st = .fault) : frame n s = .next ⟨t, true⟩ := by
  rw [frame, h, fault]

theorem frame_of_burst_other (other : st ≠ .fault) : frame n s = .next ⟨t.tick, false⟩ := by
  rw [frame, h]
  cases st with
  | fault => exact absurd rfl other
  | normal | drawReady | awaitingInput => rfl

end frame

/-! ### The obligations -/

/-- Settles O53: outside Faulted a tick is one update of the timers and the signals (R210). -/
theorem tickCountsBothTimersDown : Obligations.TickCountsBothTimersDown := by
  refine fun s => ⟨fun notFaulted => ?_, State.tick_of_faulted⟩
  have frame := keepsAllBut_tick s
  rw [State.tick_of_not_faulted notFaulted] at frame ⊢
  exact ⟨toNat_countDown s.dt, toNat_countDown s.st, rfl, rfl, rfl, keepsRegsBut_of_v_eq rfl _, frame⟩

/-- Settles O56: by induction on the budget the burst is a run of steps, and the frame adds the tick. -/
theorem frameIsABurstOfStepsAndOneTick : Obligations.FrameIsABurstOfStepsAndOneTick := by
  intro n s
  obtain ⟨k, t, st, run⟩ := burstRun_exists n s
  exact ⟨k, t, st, run.within, run.burst_eq, run.run_eq, run.statuses, run.starts, run.stops, run.idle,
    frame_of_burst_other run.burst_eq, fun fault => ⟨run.faulted fault, frame_of_burst_fault run.burst_eq fault⟩⟩

end Sys2Proof.Machine
end

section
/-! PROOFS. Isolation: what no instruction reads. One lemma about a step of two related states covers ST and the signals
(`10_state.md` R30, R33, R34), the high bits of addresses (`92_eei_decisions.md` D5, D6) and the latch (R31). -/

namespace Sys2Proof.Machine

/-! ### States that differ within a tolerance -/

/-- How far two states may differ: in 16-bit addresses (I, PC, the return addresses), in ST, in the two signals, and in
the keyboard latch. -/
structure Tolerance where
  addr : Word → Word → Prop
  soundTimer : Byte → Byte → Prop
  signal : Bool → Bool → Prop
  latch : Vector Bool 16 → Vector Bool 16 → Prop

/-- What a step needs of a tolerance: it allows equal values, and tolerated addresses stay so when a step adds to both
and are the same to a memory access. -/
structure Tolerance.Sound (T : Tolerance) : Prop where
  addr_refl : ∀ a, T.addr a a
  addr_add : ∀ {a b : Word} (c : Word), T.addr a b → T.addr (a + c) (b + c)
  addr_low12 : ∀ {a b : Word}, T.addr a b → Low12 a b
  soundTimer_refl : ∀ a, T.soundTimer a a
  signal_refl : ∀ a, T.signal a a

/-- The two states differ at most within the tolerance. -/
structure Alike (T : Tolerance) (s t : State) : Prop where
  v : t.v = s.v
  i : T.addr s.i t.i
  pc : T.addr s.pc t.pc
  sp : t.sp = s.sp
  stack : ∀ k : Fin 16, T.addr s.stack[k] t.stack[k]
  dt : t.dt = s.dt
  st : T.soundTimer s.st t.st
  mem : t.mem = s.mem
  fb : t.fb = s.fb
  key : T.latch s.key t.key
  drawReady : T.signal s.drawReady t.drawReady
  awaitingInput : T.signal s.awaitingInput t.awaitingInput
  mode : t.mode = s.mode
  faultKind : t.faultKind = s.faultKind
  rndCount : t.rndCount = s.rndCount

/-- Addresses with the same low 12 bits reach the same byte at every offset. -/
theorem Low12.wrapAddr_add {a b : Word} (h : Low12 a b) (k : Nat) :
    wrapAddr (b.toNat + k) = wrapAddr (a.toNat + k) := by
  simp only [Low12, wrapAddr, Config.memSize] at *
  omega

theorem Low12.add {a b : Word} (h : Low12 a b) (c : Word) : Low12 (a + c) (b + c) := by
  simp only [Low12, BitVec.toNat_add] at *
  omega

theorem indexSum_eq_add (i : Word) (b : Byte) : indexSum i b = i + BitVec.ofNat 16 b.toNat := by
  apply BitVec.eq_of_toNat_eq
  simp [indexSum, BitVec.toNat_add]

/-! ### Two such states read the same -/

section reads
variable {T : Tolerance} {s t : State}

theorem Alike.readV (h : Alike T s t) (x : RegIdx) : t.readV x = s.readV x := State.readV_congr h.v x

theorem Alike.wrapAddr_indexed (hT : T.Sound) (h : Alike T s t) (k : Nat) :
    wrapAddr (indexed t k) = wrapAddr (indexed s k) := (hT.addr_low12 h.i).wrapAddr_add k

theorem Alike.memRead_indexed (hT : T.Sound) (h : Alike T s t) (k : Nat) :
    t.memRead (indexed t k) = s.memRead (indexed s k) :=
  (State.memRead_congr h.mem _).trans (s.memRead_of_wrap_eq (h.wrapAddr_indexed hT k))

theorem Alike.fetchWord (hT : T.Sound) (h : Alike T s t) : t.fetchWord = s.fetchWord := by
  have low := hT.addr_low12 h.pc
  have first := s.memRead_of_wrap_eq (low.wrapAddr_add 0)
  have second := s.memRead_of_wrap_eq (low.wrapAddr_add 1)
  simp only [Nat.add_zero] at first
  simp only [State.fetchWord, State.memRead_congr h.mem, first, second]

theorem Alike.drawSprite (hT : T.Sound) (h : Alike T s t) (vx vy n : Nat) :
    drawSprite t vx vy n = drawSprite s vx vy n := by
  simp only [Machine.drawSprite, h.memRead_indexed hT, h.fb]

theorem State.lowestKeyDown_congr (h : t.key = s.key) : t.lowestKeyDown = s.lowestKeyDown := by
  simp only [State.lowestKeyDown, State.keyDown, h]

theorem keySelected_congr (h : t.key = s.key) (b : Byte) : keySelected t b = keySelected s b := by
  simp only [keySelected, keySelectedWith, State.keyDown, h]

end reads

/-! ### Every named operation keeps two such states alike -/

section operations
variable {T : Tolerance} {s t : State}

theorem Alike.writeV (h : Alike T s t) (x : RegIdx) {b c : Byte} (hb : c = b) :
    Alike T (s.writeV x b) (t.writeV x c) :=
  { h with v := by simp [h.v, hb] }

theorem Alike.writeResultThenFlag (h : Alike T s t) (x : RegIdx) {a b c d : Byte} (hr : c = a) (hf : d = b) :
    Alike T (s.writeResultThenFlag x a b) (t.writeResultThenFlag x c d) := (h.writeV x hr).writeV flagReg hf

theorem Alike.writeI (h : Alike T s t) {a b : Word} (hab : T.addr a b) : Alike T (s.writeI a) (t.writeI b) :=
  { h with i := hab }

theorem Alike.jumpTo (h : Alike T s t) {a b : Word} (hab : T.addr a b) : Alike T (s.jumpTo a) (t.jumpTo b) :=
  { h with pc := hab }

theorem Alike.advance (hT : T.Sound) (h : Alike T s t) : Alike T s.advance t.advance := h.jumpTo (hT.addr_add 2 h.pc)

theorem Alike.skipIf (hT : T.Sound) (h : Alike T s t) {b c : Bool} (hb : c = b) :
    Alike T (s.skipIf b) (t.skipIf c) := by
  subst hb
  cases c
  · exact h.advance hT
  · exact h.jumpTo (hT.addr_add 4 h.pc)

theorem Alike.writeDt (h : Alike T s t) {b c : Byte} (hb : c = b) : Alike T (s.writeDt b) (t.writeDt c) :=
  { h with dt := hb }

theorem Alike.writeSt (hT : T.Sound) (h : Alike T s t) {b c : Byte} (hb : c = b) :
    Alike T (s.writeSt b) (t.writeSt c) :=
  { h with st := hb ▸ hT.soundTimer_refl _ }

theorem Alike.writeFb (h : Alike T s t) {f g : FrameBuffer} (hf : g = f) : Alike T (s.writeFb f) (t.writeFb g) :=
  { h with fb := hf }

theorem Alike.signalDraw (hT : T.Sound) (h : Alike T s t) : Alike T s.signalDraw t.signalDraw :=
  { h with drawReady := hT.signal_refl _ }

theorem Alike.setWait (hT : T.Sound) (h : Alike T s t) (b : Bool) (m : Mode) :
    Alike T (s.setWait b m) (t.setWait b m) :=
  { h with awaitingInput := hT.signal_refl _, mode := rfl }

theorem Alike.countDraw (h : Alike T s t) : Alike T s.countDraw t.countDraw :=
  { h with rndCount := congrArg (· + 1) h.rndCount }

theorem Alike.raiseFault (h : Alike T s t) (k : FaultKind) : Alike T (s.raiseFault k) (t.raiseFault k) :=
  { h with mode := rfl, faultKind := rfl }

theorem Alike.memWrite (h : Alike T s t) {a b : Nat} (hab : wrapAddr b = wrapAddr a) {x y : Byte} (hx : y = x) :
    Alike T (s.memWrite a x) (t.memWrite b y) :=
  { h with mem := by simp [h.mem, hab, hx] }

theorem Alike.storeList (hT : T.Sound) (base : Alike T s t) (l : List RegIdx) {p q : State} (h : Alike T p q) :
    Alike T (storeList s l p) (storeList t l q) := by
  induction l generalizing p q with
  | nil => exact h
  | cons r rest ih => exact ih (h.memWrite (base.wrapAddr_indexed hT r.val) (base.readV r))

theorem Alike.loadList (hT : T.Sound) (base : Alike T s t) (l : List RegIdx) {p q : State} (h : Alike T p q) :
    Alike T (loadList s l p) (loadList t l q) := by
  induction l generalizing p q with
  | nil => exact h
  | cons r rest ih => exact ih (h.writeV r (base.memRead_indexed hT r.val))

theorem Alike.storeDigits (hT : T.Sound) (h : Alike T s t) {b c : Byte} (hb : c = b) :
    Alike T (storeDigits b s) (storeDigits c t) := by
  subst hb
  have at_index := h.wrapAddr_indexed hT
  exact ((h.memWrite (at_index 0) rfl).memWrite (at_index 1) rfl).memWrite (at_index 2) rfl

theorem Alike.call (hT : T.Sound) (h : Alike T s t) (nnn : Addr) :
    ∃ s' t', execCall nnn s = .next s' ∧ execCall nnn t = .next t' ∧ Alike T s' t' := by
  by_cases room : s.sp.val < 16
  · have room' : t.sp.val < 16 := h.sp ▸ room
    refine ⟨_, _, execCall_of_room nnn room, execCall_of_room nnn room', ?_⟩
    refine { h with pc := hT.addr_refl _, sp := by simp [h.sp], stack := fun k => ?_ }
    simp only [Fin.getElem_fin, Vector.getElem_set, h.sp]
    split
    · exact hT.addr_add 2 h.pc
    · exact h.stack k
  · have full : s.sp.val = 16 := by omega
    exact ⟨_, _, execCall_of_full nnn full, execCall_of_full nnn (h.sp ▸ full), h.raiseFault _⟩

theorem Alike.ret (h : Alike T s t) :
    ∃ s' t', execRet s = .next s' ∧ execRet t = .next t' ∧ Alike T s' t' := by
  by_cases entry : 0 < s.sp.val
  · have entry' : 0 < t.sp.val := h.sp ▸ entry
    refine ⟨_, _, execRet_of_entry entry, execRet_of_entry entry', ?_⟩
    refine { h with pc := ?_, sp := by simp [h.sp] }
    simpa only [h.sp, Fin.getElem_fin] using h.stack ⟨s.sp.val - 1, by omega⟩
  · have empty : s.sp.val = 0 := by omega
    exact ⟨_, _, execRet_of_empty empty, execRet_of_empty (h.sp ▸ empty), h.raiseFault _⟩

theorem Alike.keyWait (hT : T.Sound) (h : Alike T s t) (hkey : t.key = s.key) (x : RegIdx) :
    ∃ s' t', execLdVxK x s = .next s' ∧ execLdVxK x t = .next t' ∧ Alike T s' t' := by
  have same := State.lowestKeyDown_congr hkey
  cases found : s.lowestKeyDown with
  | some k =>
    exact ⟨_, _, execLdVxK_of_key x found, execLdVxK_of_key x (same.trans found),
      ((h.writeV x rfl).setWait hT _ _).advance hT⟩
  | none => exact ⟨_, _, execLdVxK_of_none x found, execLdVxK_of_none x (same.trans found), h.setWait hT _ _⟩

end operations

/-! ### Every instruction and every step keeps two such states alike -/

/-- An instruction takes alike states to alike states; only an instruction that reads the latch needs it to be the
same. -/
theorem Alike.exec {T : Tolerance} (hT : T.Sound) {s t : State} (h : Alike T s t) (i : Instr)
    (hkey : readsLatch i = true → t.key = s.key) :
    ∃ s' t', exec i s = .next s' ∧ exec i t = .next t' ∧ Alike T s' t' := by
  cases i
  case cls n2 => exact ⟨_, _, rfl, rfl, (h.writeFb rfl).advance hT⟩
  case ret n2 => exact h.ret
  case jp nnn => exact ⟨_, _, rfl, rfl, h.jumpTo (hT.addr_refl _)⟩
  case call nnn => exact h.call hT nnn
  case seVxByte | sneVxByte | seVxVy | sneVxVy => exact ⟨_, _, rfl, rfl, h.skipIf hT (by simp only [h.readV])⟩
  case skpVx x | sknpVx x =>
    exact ⟨_, _, rfl, rfl, h.skipIf hT (by simp only [h.readV, keySelected_congr (hkey rfl)])⟩
  case ldVxByte x kk | addVxByte x kk | ldVxVy x y | orVxVy x y | andVxVy x y | xorVxVy x y | ldVxDt x =>
    exact ⟨_, _, rfl, rfl, (h.writeV x (by simp only [h.readV, h.dt])).advance hT⟩
  case addVxVy x y | subVxVy x y | shrVx x n3 | subnVxVy x y | shlVx x n3 =>
    exact ⟨_, _, rfl, rfl,
      (h.writeResultThenFlag x (by simp only [h.readV]) (by simp only [h.readV])).advance hT⟩
  case ldIAddr nnn => exact ⟨_, _, rfl, rfl, (h.advance hT).writeI (hT.addr_refl _)⟩
  case jpV0Addr nnn =>
    refine ⟨_, _, rfl, rfl, h.jumpTo ?_⟩
    simpa only [v0Target, h.readV] using hT.addr_refl _
  case rndVxByte x kk =>
    exact ⟨_, _, rfl, rfl, ((h.writeV x (by rw [h.rndCount])).advance hT).countDraw⟩
  case drwVxVyN x y n =>
    have same : Machine.drawSprite t (t.readV x).toNat (t.readV y).toNat n.val =
        Machine.drawSprite s (s.readV x).toNat (s.readV y).toNat n.val := by
      rw [h.drawSprite hT, h.readV, h.readV]
    exact ⟨_, _, rfl, rfl,
      (((h.writeFb (by rw [same])).writeV flagReg (by rw [same])).signalDraw hT).advance hT⟩
  case ldVxK x => exact h.keyWait hT (hkey rfl) x
  case ldDtVx x => exact ⟨_, _, rfl, rfl, (h.writeDt (h.readV x)).advance hT⟩
  case ldStVx x => exact ⟨_, _, rfl, rfl, (h.writeSt hT (h.readV x)).advance hT⟩
  case addIVx x =>
    refine ⟨_, _, rfl, rfl, (h.writeI ?_).advance hT⟩
    rw [h.readV, indexSum_eq_add, indexSum_eq_add]
    exact hT.addr_add _ h.i
  case ldFVx x =>
    refine ⟨_, _, rfl, rfl, (h.writeI ?_).advance hT⟩
    rw [h.readV]
    exact hT.addr_refl _
  case ldBVx x => exact ⟨_, _, rfl, rfl, (h.storeDigits hT (h.readV x)).advance hT⟩
  case ldMemVx x => exact ⟨_, _, rfl, rfl, (h.storeList hT (regsUpTo x) h).advance hT⟩
  case ldVxMem x => exact ⟨_, _, rfl, rfl, (h.loadList hT (regsUpTo x) h).advance hT⟩

theorem Alike.statusAfter {T : Tolerance} {s t : State} (h : Alike T s t) (i : Instr)
    (hkey : readsLatch i = true → t.key = s.key) : statusAfter i t = statusAfter i s := by
  cases i
  case call nnn | ret n2 => simp only [Machine.statusAfter, h.sp]
  case ldVxK x => simp only [Machine.statusAfter, State.lowestKeyDown_congr (hkey rfl)]
  all_goals rfl

/-- Alike states step alike, with the same outputs; the latch matters only to an instruction that reads it. -/
theorem Alike.step {T : Tolerance} (hT : T.Sound) {s t : State} (h : Alike T s t)
    (hkey : ∀ i, classify s.fetchWord = .op i → readsLatch i = true → t.key = s.key) :
    ∃ s' t', step s = .next s' ∧ step t = .next t' ∧ Alike T s' t' ∧ stepOutput t = stepOutput s := by
  simp only [Machine.step, stepOutput, h.mode, h.fetchWord hT]
  split
  · exact ⟨s, t, rfl, rfl, h, rfl⟩
  · cases read : classify s.fetchWord with
    | op i =>
      obtain ⟨s', t', hs, ht, alike⟩ := h.exec hT i (hkey i read)
      refine ⟨s', t', hs, ht, alike, ?_⟩
      simp only [classifiedOutput, h.statusAfter i (hkey i read)]
    | unknown w => exact ⟨_, _, rfl, rfl, h.advance hT, rfl⟩

/-! ### The three tolerances -/

/-- ST and the two signals may differ at will. -/
def unreadTolerance : Tolerance := ⟨Eq, fun _ _ => True, fun _ _ => True, Eq⟩

/-- Addresses may differ in their high four bits. -/
def highBitsTolerance : Tolerance := ⟨Low12, Eq, Eq, Eq⟩

/-- The second latch is the first with one key set. -/
def keyTolerance (k : KeyIdx) (down : Bool) : Tolerance := ⟨Eq, Eq, Eq, fun a b => b = a.set k down⟩

theorem unreadTolerance_sound : unreadTolerance.Sound :=
  ⟨fun _ => rfl, fun _ h => h ▸ rfl, fun h => h ▸ rfl, fun _ => trivial, fun _ => trivial⟩

theorem highBitsTolerance_sound : highBitsTolerance.Sound :=
  ⟨fun _ => rfl, fun c h => h.add c, id, fun _ => rfl, fun _ => rfl⟩

theorem keyTolerance_sound (k : KeyIdx) (down : Bool) : (keyTolerance k down).Sound :=
  ⟨fun _ => rfl, fun _ h => h ▸ rfl, fun h => h ▸ rfl, fun _ => rfl, fun _ => rfl⟩

/-- The second of two alike states is the first with what the tolerance speaks of replaced. -/
theorem Alike.eq_with {T : Tolerance} {s t : State} (h : Alike T s t) : t = { s with
    i := t.i, pc := t.pc, stack := t.stack, st := t.st, key := t.key, drawReady := t.drawReady,
    awaitingInput := t.awaitingInput } := by
  cases t
  simp only [State.mk.injEq, true_and]
  exact ⟨h.v, h.sp, h.dt, h.mem, h.fb, h.mode, h.faultKind, h.rndCount⟩

/-- A tolerance that asks for equal return addresses asks for the same stack. -/
theorem Alike.stack_eq {T : Tolerance} {s t : State} (h : Alike T s t) (equal : ∀ a b, T.addr a b → a = b) :
    t.stack = s.stack :=
  Vector.ext fun k hk => (equal _ _ (h.stack ⟨k, hk⟩)).symm

theorem sameButUnread_iff_alike {s t : State} : SameButUnread s t ↔ Alike unreadTolerance s t := by
  constructor
  · intro h
    have field {α : Type} (f : State → α) := congrArg f h
    exact ⟨field State.v, (field State.i).symm, (field State.pc).symm, field State.sp,
      fun k => congrArg (·[k]) (field State.stack).symm, field State.dt, trivial, field State.mem, field State.fb,
      (field State.key).symm, trivial, trivial, field State.mode, field State.faultKind, field State.rndCount⟩
  · intro h
    have i : s.i = t.i := h.i
    have pc : s.pc = t.pc := h.pc
    have key : s.key = t.key := h.key
    have stack := h.stack_eq fun _ _ => id
    rw [SameButUnread, i, pc, key, ← stack]
    exact h.eq_with

theorem sameLow12_iff_alike {s t : State} : SameLow12 s t ↔ Alike highBitsTolerance s t := by
  constructor
  · intro h
    have field {α : Type} (f : State → α) := congrArg f h.rest
    exact ⟨field State.v, h.i, h.pc, field State.sp, h.stack, field State.dt, (field State.st).symm, field State.mem,
      field State.fb, (field State.key).symm, (field State.drawReady).symm, (field State.awaitingInput).symm,
      field State.mode, field State.faultKind, field State.rndCount⟩
  · intro h
    have st : s.st = t.st := h.st
    have key : s.key = t.key := h.key
    have drawReady : s.drawReady = t.drawReady := h.drawReady
    have awaitingInput : s.awaitingInput = t.awaitingInput := h.awaitingInput
    refine ⟨?_, h.i, h.pc, h.stack⟩
    rw [st, key, drawReady, awaitingInput]
    exact h.eq_with

theorem eq_setKey_iff_alike {s t : State} (k : KeyIdx) (down : Bool) :
    t = s.setKey k down ↔ Alike (keyTolerance k down) s t := by
  constructor
  · rintro rfl
    exact ⟨rfl, rfl, rfl, rfl, fun _ => rfl, rfl, rfl, rfl, rfl, rfl, rfl, rfl, rfl, rfl, rfl⟩
  · intro h
    have i : s.i = t.i := h.i
    have pc : s.pc = t.pc := h.pc
    have st : s.st = t.st := h.st
    have key : t.key = s.key.set k down := h.key
    have drawReady : s.drawReady = t.drawReady := h.drawReady
    have awaitingInput : s.awaitingInput = t.awaitingInput := h.awaitingInput
    have stack := h.stack_eq fun _ _ => id
    rw [State.setKey, i, pc, st, ← key, drawReady, awaitingInput, ← stack]
    exact h.eq_with

/-! ### The obligations -/

/-- Settles O57: the two states stay within the tolerance of ST and the signals. -/
theorem stepsDoNotReadStOrTheSignals : Obligations.StepsDoNotReadStOrTheSignals := by
  intro s t s' same hs
  have alike := sameButUnread_iff_alike.1 same
  obtain ⟨_, t', hs', ht, alike', outputs⟩ := alike.step unreadTolerance_sound fun _ _ _ => alike.key.symm
  cases hs.symm.trans hs'
  exact ⟨t', ht, sameButUnread_iff_alike.2 alike', outputs.symm⟩

/-- Settles O58: the two states stay within the tolerance of the high address bits, since a step only adds to an address
and uses it mod 4096. -/
theorem highAddressBitsAreUnobservable : Obligations.HighAddressBitsAreUnobservable := by
  intro s t s' same hs
  have alike := sameLow12_iff_alike.1 same
  obtain ⟨_, t', hs', ht, alike', outputs⟩ := alike.step highBitsTolerance_sound fun _ _ _ => alike.key.symm
  cases hs.symm.trans hs'
  exact ⟨t', ht, sameLow12_iff_alike.2 alike', outputs.symm⟩

/-- Settles O59: the state with the key set stays the other one with the key set, when the step does not read the
latch. -/
theorem keyChangesCommuteWithOtherSteps : Obligations.KeyChangesCommuteWithOtherSteps := by
  intro s t k down unread hs
  have alike := (eq_setKey_iff_alike (s := s) k down).1 rfl
  obtain ⟨_, t', hs', ht, alike', outputs⟩ := alike.step (keyTolerance_sound k down) fun i hi reads =>
    absurd reads (by simp [unread i hi])
  cases hs.symm.trans hs'
  rw [← (eq_setKey_iff_alike k down).2 alike']
  exact ⟨ht, outputs⟩

end Sys2Proof.Machine
end
